-- ==== Sys2Proof/Word.lean ====
section
/-! DEFINITION. The words of the machine: 32-bit registers and command words, the 64-bit DATA of a
vector register, bytes of the host bus, vector register numbers, and the BitVector (L, v) of the
command rules. -/

namespace Sys2Proof

/-- A 32-bit register or command word (20_memory R71, 30_encoding R90). -/
abbrev Word := BitVec 32

/-- The DATA field of a vector register (10_state R33). -/
abbrev VData := BitVec 64

/-- One byte of a bus transfer (20_memory R74). -/
abbrev Byte := BitVec 8

/-- The number of a vector register, V0 to V7 (10_state R33, 30_encoding R92). -/
abbrev VIdx := Fin 8

/-- A BitVector written as the pair (L, v) of 00_scope R14: its length and its value.
Element 0 is bit L - 1 of the value. -/
structure BVec where
  len : Nat
  val : Nat
  deriving DecidableEq, Repr

end Sys2Proof
end

