-- ==== Sys2Proof/Syntax.lean ====
section
/-! DEFINITION. The commands of CORE: one constructor per row of spec/opcode_table.json
(30_encoding R95), each with the operands its row uses. -/

namespace Sys2Proof

/-- A command. Register operands name V0 to V7 (30_encoding R92); an immediate is an unsigned
number, 0 to 255 in every encoded command (R93, checked by `Instr.wf`). -/
inductive Instr where
  /-- `xor vd, va, vb` (41 R121). -/
  | xor (rd ra rb : VIdx)
  /-- `mul vd, va, vb` (41 R122). -/
  | mul (rd ra rb : VIdx)
  /-- `mod vd, va, vb` (41 R123). -/
  | mod (rd ra rb : VIdx)
  /-- `wgt va` (41 R124). -/
  | wgt (ra : VIdx)
  /-- `rotl vd, va` (41 R125). -/
  | rotl (rd ra : VIdx)
  /-- `rotr vd, va` (41 R126). -/
  | rotr (rd ra : VIdx)
  /-- `shlx vd, va, r` (41 R127). -/
  | shlx (rd ra : VIdx) (r : Nat)
  /-- `rslv.h k` (42 R151). -/
  | rslvH (k : Nat)
  /-- `rslv.bch k, s` (42 R153). -/
  | rslvBch (k s : Nat)
  /-- `clrp` (42 R156). -/
  | clrp
  /-- `syn.cyc vd, wmin` (43 R172). -/
  | synCyc (rd : VIdx) (wmin : Nat)
  /-- `syn.bch vd` (43 R174). -/
  | synBch (rd : VIdx)
  /-- `enc.poly vd, va, vg` (44 R191). -/
  | encPoly (rd ra rb : VIdx)
  /-- `enc.mat vd, va` (44 R192). -/
  | encMat (rd ra : VIdx)
  /-- `info vd, va` (44 R193). -/
  | info (rd ra : VIdx)
  /-- `dec.cyc vd, vw, vg, t` (45 R211). -/
  | decCyc (rd ra rb : VIdx) (t : Nat)
  /-- `dec.mat vd, vw` (45 R212). -/
  | decMat (rd ra : VIdx)
  /-- `synm vd, vw` (46 R234). -/
  | synm (rd ra : VIdx)
  /-- `hrow vd, i` (46 R235). -/
  | hrow (rd : VIdx) (i : Nat)
  /-- `hcol vd, p` (46 R236). -/
  | hcol (rd : VIdx) (p : Nat)
  /-- `grow vd, q` (46 R237). -/
  | grow (rd : VIdx) (q : Nat)
  deriving DecidableEq, Repr

end Sys2Proof
end

