-- ==== Sys2Proof/WellFormed.lean ====
section
/-! DEFINITION. When a command can be encoded: every immediate it has fits its 8-bit field
(30_encoding R91, R93, R100). A register operand always fits (R92). -/

namespace Sys2Proof

/-- The value of an 8-bit immediate field: 0 to 255 (30_encoding R93). -/
abbrev immFits (x : Nat) : Prop := x < 256

/-- A well-formed command: its immediates fit their fields. -/
abbrev Instr.wf : Instr → Prop
  | .xor _ _ _ => True
  | .mul _ _ _ => True
  | .mod _ _ _ => True
  | .wgt _ => True
  | .rotl _ _ => True
  | .rotr _ _ => True
  | .shlx _ _ r => immFits r
  | .rslvH k => immFits k
  | .rslvBch k s => immFits k ∧ immFits s
  | .clrp => True
  | .synCyc _ wmin => immFits wmin
  | .synBch _ => True
  | .encPoly _ _ _ => True
  | .encMat _ _ => True
  | .info _ _ => True
  | .decCyc _ _ _ t => immFits t
  | .decMat _ _ => True
  | .synm _ _ => True
  | .hrow _ i => immFits i
  | .hcol _ p => immFits p
  | .grow _ q => immFits q

end Sys2Proof
end

