-- ==== Sys2Proof/Decode.lean ====
section
/-! DEFINITION. The command encoding: format C, the opcode map, the total decoder that rejects by
name, and the encoder (30_encoding R90 to R98). -/

namespace Sys2Proof

/-- Why a word is no command: the three cases of 60_exceptions R259. A stream of bytes too short to
hold a command word is the fourth, which no CMD write can be. -/
inductive DecodeReject where
  /-- (a) the OP value is not assigned (30_encoding R96). -/
  | unassignedOpcode
  /-- (b) Z, bit 15, is 1 (30_encoding R94). -/
  | reservedBit
  /-- (c) a field the command does not use is not 0 (30_encoding R94). -/
  | unusedField
  /-- Fewer than four bytes are left. -/
  | truncated
  deriving DecidableEq, Repr

/-- Bits [lo + width - 1 : lo] of a word, as an unsigned number (00_scope R22). -/
def fieldBits (w : Word) (lo width : Nat) : Nat := w.toNat / 2 ^ lo % 2 ^ width

/-- A 3-bit register field (30_encoding R92). -/
def regField (w : Word) (lo : Nat) : VIdx := ⟨fieldBits w lo 3, Nat.mod_lt _ (by decide)⟩

/-- OP, bits [5:0] (30_encoding R91). -/
def opField (w : Word) : Nat := fieldBits w 0 6
/-- RD, bits [8:6] (30_encoding R91). -/
def rdField (w : Word) : VIdx := regField w 6
/-- RA, bits [11:9] (30_encoding R91). -/
def raField (w : Word) : VIdx := regField w 9
/-- RB, bits [14:12] (30_encoding R91). -/
def rbField (w : Word) : VIdx := regField w 12
/-- Z, bit [15] (30_encoding R91). -/
def zField (w : Word) : Nat := fieldBits w 15 1
/-- IMMA, bits [23:16], unsigned (30_encoding R91, R93). -/
def immaField (w : Word) : Nat := fieldBits w 16 8
/-- IMMB, bits [31:24], unsigned (30_encoding R91, R93). -/
def immbField (w : Word) : Nat := fieldBits w 24 8

/-- A row of the opcode map: its OP, its mask, and the command its words stand for (30_encoding R95). -/
structure OpRow where
  op : Nat
  mask : Word
  build : Word → Instr

/-- The match of a row is its OP value, with 0 elsewhere (30_encoding R94, R95). -/
def OpRow.matchWord (row : OpRow) : Word := BitVec.ofNat 32 row.op

/-- The opcode map, in the order of 30_encoding R95. -/
def opcodeMap : List OpRow :=
  [⟨0x01, 0xFFFF803F#32, fun w => .xor (rdField w) (raField w) (rbField w)⟩,
   ⟨0x02, 0xFFFF803F#32, fun w => .mul (rdField w) (raField w) (rbField w)⟩,
   ⟨0x03, 0xFFFF803F#32, fun w => .mod (rdField w) (raField w) (rbField w)⟩,
   ⟨0x04, 0xFFFFF1FF#32, fun w => .wgt (raField w)⟩,
   ⟨0x05, 0xFFFFF03F#32, fun w => .rotl (rdField w) (raField w)⟩,
   ⟨0x06, 0xFFFFF03F#32, fun w => .rotr (rdField w) (raField w)⟩,
   ⟨0x07, 0xFF00F03F#32, fun w => .shlx (rdField w) (raField w) (immaField w)⟩,
   ⟨0x10, 0xFF00FFFF#32, fun w => .rslvH (immaField w)⟩,
   ⟨0x11, 0x0000FFFF#32, fun w => .rslvBch (immaField w) (immbField w)⟩,
   ⟨0x12, 0xFFFFFFFF#32, fun _ => .clrp⟩] ++
  [⟨0x18, 0xFF00FE3F#32, fun w => .synCyc (rdField w) (immaField w)⟩,
   ⟨0x19, 0xFFFFFE3F#32, fun w => .synBch (rdField w)⟩,
   ⟨0x20, 0xFFFF803F#32, fun w => .encPoly (rdField w) (raField w) (rbField w)⟩,
   ⟨0x21, 0xFFFFF03F#32, fun w => .encMat (rdField w) (raField w)⟩,
   ⟨0x22, 0xFFFFF03F#32, fun w => .info (rdField w) (raField w)⟩,
   ⟨0x28, 0xFF00803F#32, fun w => .decCyc (rdField w) (raField w) (rbField w) (immaField w)⟩,
   ⟨0x29, 0xFFFFF03F#32, fun w => .decMat (rdField w) (raField w)⟩,
   ⟨0x30, 0xFFFFF03F#32, fun w => .synm (rdField w) (raField w)⟩,
   ⟨0x31, 0xFF00FE3F#32, fun w => .hrow (rdField w) (immaField w)⟩,
   ⟨0x32, 0xFF00FE3F#32, fun w => .hcol (rdField w) (immaField w)⟩,
   ⟨0x33, 0xFF00FE3F#32, fun w => .grow (rdField w) (immaField w)⟩]

/-- The decoder of 30_encoding R98: select the row by OP, then compare the word under the row's mask
with the row's match. It is total, and it names the reason of a rejection (60_exceptions R259). -/
def decode (w : Word) : Except DecodeReject Instr :=
  match opcodeMap.find? fun row => row.op == opField w with
  | none => .error .unassignedOpcode
  | some row =>
    if w &&& row.mask = row.matchWord then .ok (row.build w)
    else if zField w = 1 then .error .reservedBit
    else .error .unusedField

/-- A word from its four bytes, the lowest address first (20_memory R74). -/
def wordOfBytes (b0 b1 b2 b3 : Byte) : Word := b3 ++ b2 ++ b1 ++ b0

/-- The byte of a word at `offset + i` of its register (20_memory R74). -/
def wordByte (w : Word) (i : Nat) : Byte := w.extractLsb' (8 * i) 8

/-- A word as its four bytes, the lowest address first (20_memory R74). -/
def wordBytes (w : Word) : List Byte := [wordByte w 0, wordByte w 1, wordByte w 2, wordByte w 3]

/-- Decoding a stream of bytes: one command word is four bytes (30_encoding R90). Answers the command
and the bytes after it. -/
def decodeBytes : List Byte → Except DecodeReject (Instr × List Byte)
  | b0 :: b1 :: b2 :: b3 :: rest =>
    match decode (wordOfBytes b0 b1 b2 b3) with
    | .ok i => .ok (i, rest)
    | .error e => .error e
  | _ => .error .truncated

/-- The command word whose bits the opcode table numbers: every bit at or above `nbits` is 0. -/
def tableWord (nbits w : Nat) : Word := BitVec.ofNat 32 (w % 2 ^ nbits)

/-- What the decoder reads from an instruction whose bits the opcode table numbers as `w`: its word's
bytes as the bus lays them out, decoded. -/
def decodeTableWord (nbits w : Nat) : Option Instr :=
  match decodeBytes (wordBytes (tableWord nbits w)) with
  | .ok (i, _) => some i
  | .error _ => none

/-- A word of format C from the values of its fields, with Z = 0 (30_encoding R91). -/
def formatC (op rd ra rb imma immb : Nat) : Word :=
  BitVec.ofNat 32 (op + rd * 2 ^ 6 + ra * 2 ^ 9 + rb * 2 ^ 12 + imma * 2 ^ 16 + immb * 2 ^ 24)

/-- The encoder: the word of a command, 0 in every field it does not use (30_encoding R91, R95, R100). -/
def encode : Instr → Word
  | .xor rd ra rb => formatC 0x01 rd ra rb 0 0
  | .mul rd ra rb => formatC 0x02 rd ra rb 0 0
  | .mod rd ra rb => formatC 0x03 rd ra rb 0 0
  | .wgt ra => formatC 0x04 0 ra 0 0 0
  | .rotl rd ra => formatC 0x05 rd ra 0 0 0
  | .rotr rd ra => formatC 0x06 rd ra 0 0 0
  | .shlx rd ra r => formatC 0x07 rd ra 0 r 0
  | .rslvH k => formatC 0x10 0 0 0 k 0
  | .rslvBch k s => formatC 0x11 0 0 0 k s
  | .clrp => formatC 0x12 0 0 0 0 0
  | .synCyc rd wmin => formatC 0x18 rd 0 0 wmin 0
  | .synBch rd => formatC 0x19 rd 0 0 0 0
  | .encPoly rd ra rb => formatC 0x20 rd ra rb 0 0
  | .encMat rd ra => formatC 0x21 rd ra 0 0 0
  | .info rd ra => formatC 0x22 rd ra 0 0 0
  | .decCyc rd ra rb t => formatC 0x28 rd ra rb t 0
  | .decMat rd ra => formatC 0x29 rd ra 0 0 0
  | .synm rd ra => formatC 0x30 rd ra 0 0 0
  | .hrow rd i => formatC 0x31 rd 0 0 i 0
  | .hcol rd p => formatC 0x32 rd 0 0 p 0
  | .grow rd q => formatC 0x33 rd 0 0 q 0

end Sys2Proof
end

