-- ==== Sys2Proof/Config.lean ====
section
/-! DEFINITION. What is fixed for the life of the hardware and no step changes: the widths, the
identification word, the window's base address, and the type of the configuration tables of 00_scope R9
to R12 with the spec's default contents. The machine runs under any tables: they stand in State (log 22). -/

namespace Sys2Proof.Config

/-- `W`, the maximum length of a BitVector in a vector register (00_scope R7). -/
abbrev W : Nat := 64

/-- `NVR`, the number of vector registers (00_scope R8). -/
abbrev NVR : Nat := 8

/-- The constant of the ID register (10_state R31): "GF", interface version 1, W = 64. -/
def idWord : Word := 0x47460140#32

/-- The size in bytes of the register window (20_memory R70). -/
abbrev windowBytes : Nat := 0x200

/-- `CORE_BASE`, where the platform puts the window (20_memory R70, 93_implementation_defined I7).
The platform chooses it, so it has no body (log 10). -/
opaque coreBase : Nat

/-- An entry (n, k_table, r, s_table) of BCH_TABLE (00_scope R10). -/
structure BchEntry where
  n : Nat
  k : Nat
  r : Nat
  s : Nat
  deriving DecidableEq, Repr

/-- A defined entry of MINPOLY: the BitVector of the pair (h, i) (00_scope R11). -/
structure MinPolyEntry where
  h : Nat
  i : Nat
  poly : BVec
  deriving DecidableEq, Repr

/-- The configuration parameters of the model (00_scope R9 to R12). -/
structure Tables where
  genMaxDegree : Nat
  bchTable : List BchEntry
  minPoly : List MinPolyEntry
  deriving DecidableEq, Repr

/-- `MINPOLY(h, i)`: a partial function from pairs (h, i) to BitVectors (00_scope R11). -/
def Tables.minPolyAt (t : Tables) (h i : Nat) : Option BVec :=
  (t.minPoly.find? fun e => e.h == h && e.i == i).map MinPolyEntry.poly

/-- A well-formed BCH entry (00_scope R10). -/
abbrev BchEntry.wf (e : BchEntry) : Prop :=
  e.n = e.k + e.r ∧ 1 ≤ e.k ∧ 1 ≤ e.s ∧ e.n + 1 ≤ W

/-- The order of BCH_TABLE: the pair (n, r), compared lexicographically (00_scope R10). -/
abbrev BchEntry.before (a b : BchEntry) : Prop := a.n < b.n ∨ a.n = b.n ∧ a.r < b.r

/-- A well-formed MINPOLY entry (00_scope R11): an odd index, length at most h + 1, leading element 1, and a
value that fits the length. -/
abbrev MinPolyEntry.wf (e : MinPolyEntry) : Prop :=
  e.i % 2 = 1 ∧ 1 ≤ e.poly.len ∧ e.poly.len ≤ e.h + 1 ∧ 2 ^ (e.poly.len - 1) ≤ e.poly.val ∧ e.poly.val < 2 ^ e.poly.len

/-- A conforming configuration: well-formed tables (00_scope R10, R11) whose first BCH row is the
document's entry (42_bch_parameter_resolver R159). -/
abbrev Tables.wf (t : Tables) : Prop :=
  (∀ e ∈ t.bchTable, e.wf) ∧ t.bchTable.Pairwise BchEntry.before ∧ t.bchTable.head? = some ⟨7, 4, 3, 1⟩ ∧
    ∀ e ∈ t.minPoly, e.wf

/-- The default BCH_TABLE of this hardware (42_bch_parameter_resolver R160; log 5). -/
def defaultBchTable : List BchEntry :=
  [⟨7, 4, 3, 1⟩,
   ⟨15, 11, 4, 1⟩, ⟨15, 7, 8, 2⟩, ⟨15, 5, 10, 3⟩,
   ⟨31, 26, 5, 1⟩, ⟨31, 21, 10, 2⟩, ⟨31, 16, 15, 3⟩,
   ⟨63, 57, 6, 1⟩, ⟨63, 51, 12, 2⟩, ⟨63, 45, 18, 3⟩, ⟨63, 39, 24, 4⟩, ⟨63, 36, 27, 5⟩,
   ⟨63, 30, 33, 6⟩, ⟨63, 24, 39, 7⟩]

/-- The default MINPOLY of this hardware (43_generator_polynomial_synthesizer R175; log 6). -/
def defaultMinPoly : List MinPolyEntry :=
  [⟨3, 1, ⟨4, 0b1011⟩⟩, ⟨3, 3, ⟨4, 0b1101⟩⟩,
   ⟨4, 1, ⟨5, 0b10011⟩⟩, ⟨4, 3, ⟨5, 0b11111⟩⟩, ⟨4, 5, ⟨3, 0b111⟩⟩, ⟨4, 7, ⟨5, 0b11001⟩⟩,
   ⟨5, 1, ⟨6, 0b100101⟩⟩, ⟨5, 3, ⟨6, 0b111101⟩⟩, ⟨5, 5, ⟨6, 0b110111⟩⟩, ⟨5, 7, ⟨6, 0b101111⟩⟩,
   ⟨6, 1, ⟨7, 0b1000011⟩⟩, ⟨6, 3, ⟨7, 0b1010111⟩⟩, ⟨6, 5, ⟨7, 0b1100111⟩⟩, ⟨6, 7, ⟨7, 0b1001001⟩⟩,
   ⟨6, 9, ⟨4, 0b1101⟩⟩, ⟨6, 11, ⟨7, 0b1101101⟩⟩, ⟨6, 13, ⟨7, 0b1011011⟩⟩]

/-- The spec's default configuration, which `State.reset` has (logs 5, 6 and 7). -/
def defaultTables : Tables where
  genMaxDegree := 16
  bchTable := defaultBchTable
  minPoly := defaultMinPoly

end Sys2Proof.Config
end

