-- ==== Sys2Proof/Machine/State.lean ====
section
/-! DEFINITION. The state of CORE as plain data (10_state R30 to R55), the turns still to be taken by
the host, the reset input and the command engine, and the state right after reset. -/

namespace Sys2Proof.Machine

/-- The codes of STATUS.ERR (60_exceptions R250). Codes 11 to 255 are reserved and never written, so
they have no constructor (93_implementation_defined I11, log 15). -/
inductive ErrCode where
  | ok
  | invalidInput
  | divisionByZero
  | noSuitableParameters
  | noGeneratorFound
  | missingMinimalPolynomial
  /-- Code 6, reserved: no command writes it (60_exceptions R250). -/
  | positionError
  /-- Code 7, reserved: no command writes it (60_exceptions R250). -/
  | exceedsCapability
  | illegalCommand
  | sessionError
  | capacityExceeded
  deriving DecidableEq, Repr

/-- The values of STATUS.DSTAT (10_state R39). Values 5 to 7 are reserved and never written (log 15). -/
inductive DStat where
  | none
  | noError
  | corrected
  | uncorrectable
  | undeterminedError
  deriving DecidableEq, Repr

/-- The session mode in PMODE (10_state R49). Value 3 is never written (log 15). -/
inductive Mode where
  | none
  | formula
  | bch
  deriving DecidableEq, Repr

/-- A vector register: LEN, 0 to 64, and the stored 64-bit DATA (10_state R33). -/
structure VReg where
  len : Fin 65
  data : VData
  deriving DecidableEq, Repr

/-- The parameter registers PK, PR, PN, PS, PH, PKREQ and PMODE: one CodeParameters record
(10_state R42 to R49). -/
structure Params where
  k : Word
  r : Word
  n : Word
  s : Word
  h : Word
  kreq : Word
  mode : Mode
  deriving DecidableEq, Repr

/-- Who moves next, and how (10_state R30; log 1). -/
inductive Turn where
  /-- The host reads `size` bits at byte offset `off` of the window (20_memory R73). -/
  | busRead (off size : Nat)
  /-- The host writes `size` bits, the word `v`, at byte offset `off` of the window (20_memory R73). -/
  | busWrite (off size : Nat) (v : Word)
  /-- The platform's reset input (70_reset_and_hazards R280). -/
  | hardReset
  /-- The command engine (70_reset_and_hazards R283 (b)). -/
  | engine
  deriving DecidableEq, Repr

/-- The bus's answer to the host's latest access (20_memory R71, R73, R75; log 2). -/
inductive BusResponse where
  /-- No access has been made yet. -/
  | none
  /-- A normal response to a read, with the word read. -/
  | readData (w : Word)
  /-- A normal response to a write. -/
  | writeDone
  /-- An error response to a read, with the word it returns. -/
  | readError (w : Word)
  /-- An error response to a write. -/
  | writeError
  deriving DecidableEq, Repr

/-- The whole state: CORE's registers, its configuration, then the model's own two fields. -/
structure State where
  /-- CTRL.IE (10_state R32). -/
  ie : Bool
  /-- STATUS.BUSY, also the in-flight flag (10_state R38, R51). -/
  busy : Bool
  /-- STATUS.DONE (10_state R38). -/
  done : Bool
  /-- STATUS.OVR (10_state R38). -/
  ovr : Bool
  /-- STATUS.ERR (10_state R38). -/
  err : ErrCode
  /-- STATUS.DSTAT (10_state R38, R39). -/
  dstat : DStat
  /-- CMD, also the in-flight command word (10_state R40, R51). -/
  cmd : Word
  /-- RESULT (10_state R41). -/
  result : Word
  /-- The parameter registers (10_state R42 to R49). -/
  params : Params
  /-- V0 to V7 (10_state R33). -/
  vregs : Vector VReg 8
  /-- The configuration: GEN_MAX_DEGREE, BCH_TABLE and MINPOLY (00_scope R9 to R12). It is a parameter of the
  machine, held here so that `step` takes it as an argument; no step changes it (log 22). -/
  tables : Config.Tables
  /-- The model's own: the turns still to be taken, oldest first. When it is empty the command engine
  moves (logs 1 and 8). -/
  schedule : List Turn
  /-- The model's own: the bus's latest answer to the host (log 2). -/
  lastResponse : BusResponse
  deriving DecidableEq, Repr

/-- Why the machine stops with a fault. -/
inductive Fault where
  /-- A host access at a byte offset outside the window, an address that 20_memory R70 says CORE does
  not have. Raised by `busRead` and `busWrite` only. Safe: the model stops (log 4). -/
  | outsideWindow (off : Nat)
  deriving DecidableEq, Repr

/-- Why a command has no meaning in the model. -/
inductive Refusal where
  /-- A command whose meaning is not written yet. Raised by a refused arm of `exec` only; no arm is
  refused. Safe: the model stops. -/
  | notModelled (mnemonic : String)
  deriving DecidableEq, Repr

/-- The empty vector register (10_state R33). -/
def VReg.empty : VReg := ⟨0, 0#64⟩

/-- The parameter registers with no session: all 0 (10_state R55, 42_bch_parameter_resolver R156). -/
def Params.noSession : Params := ⟨0#32, 0#32, 0#32, 0#32, 0#32, 0#32, .none⟩

/-- The machine right after reset: the table of 10_state R55, with the spec's default configuration
(logs 5, 6 and 7). -/
def State.reset : State where
  ie := false
  busy := false
  done := false
  ovr := false
  err := .ok
  dstat := .none
  cmd := 0#32
  result := 0#32
  params := Params.noSession
  vregs := Vector.replicate 8 VReg.empty
  tables := Config.defaultTables
  schedule := []
  lastResponse := .none

end Sys2Proof.Machine
end

