-- ==== Sys2Proof/Machine/Flags.lean ====
section
/-! DEFINITION. The numbers of the coded fields, the read values of STATUS and CTRL, and the interrupt
output (10_state R32, R38, R39, R49, 60_exceptions R250, R262). CORE has no condition flags (10_state R54). -/

namespace Sys2Proof.Machine

/-- The number of an error code (60_exceptions R250). -/
def ErrCode.code : ErrCode → Nat
  | .ok => 0
  | .invalidInput => 1
  | .divisionByZero => 2
  | .noSuitableParameters => 3
  | .noGeneratorFound => 4
  | .missingMinimalPolynomial => 5
  | .positionError => 6
  | .exceedsCapability => 7
  | .illegalCommand => 8
  | .sessionError => 9
  | .capacityExceeded => 10

/-- The number of a decode status (10_state R39). -/
def DStat.code : DStat → Nat
  | .none => 0
  | .noError => 1
  | .corrected => 2
  | .uncorrectable => 3
  | .undeterminedError => 4

/-- The number of a session mode (10_state R49). -/
def Mode.code : Mode → Nat
  | .none => 0
  | .formula => 1
  | .bch => 2

/-- The read value of STATUS: BUSY [0], DONE [1], OVR [2], ERR [15:8], DSTAT [18:16], the rest 0
(10_state R38). -/
def State.statusWord (s : State) : Word :=
  BitVec.ofNat 32
    (s.busy.toNat + s.done.toNat * 2 ^ 1 + s.ovr.toNat * 2 ^ 2 + s.err.code * 2 ^ 8 + s.dstat.code * 2 ^ 16)

/-- The read value of CTRL: IE [0], the rest 0 (10_state R32). -/
def State.ctrlWord (s : State) : Word := BitVec.ofNat 32 s.ie.toNat

/-- The interrupt output: IE AND DONE (60_exceptions R262; log 21). -/
def State.irq (s : State) : Bool := s.ie && s.done

end Sys2Proof.Machine
end

