-- ==== Sys2Proof/Machine/Polynomial.lean ====
section
/-! DEFINITION. The arithmetic primitives on natural numbers (00_scope R18, R20) and the operations on
BitVectors that the command rules name (00_scope R14 to R17, 41_gf2_polynomial_arith R121 to R127). -/

namespace Sys2Proof.Machine

/-- The number of 1s among the low `n` bits of `a`. -/
def popcountBits : Nat → Nat → Nat
  | 0, _ => 0
  | n + 1, a => a % 2 + popcountBits n (a / 2)

/-- `popcount(a)`: the number of 1 bits of `a` (00_scope R20). -/
def popcount (a : Nat) : Nat := popcountBits (a.log2 + 1) a

/-- The XOR of `a << d` over the bits `d < n` of `b` that are 1. -/
def clmulBits : Nat → Nat → Nat → Nat
  | 0, _, _ => 0
  | n + 1, a, b => clmulBits n a b ^^^ (if b.testBit n then a <<< n else 0)

/-- `clmul(a, b)`: the carry-less product (00_scope R20). -/
def clmul (a b : Nat) : Nat := clmulBits (b.log2 + 1) a b

/-- The loop of `clmod` in 00_scope R20, with a bound on its rounds: each round clears the leading bit
of `a`. -/
def clmodLoop : Nat → Nat → Nat → Nat
  | 0, a, _ => a
  | fuel + 1, a, b =>
    if a ≠ 0 ∧ b.log2 ≤ a.log2 then clmodLoop fuel (a ^^^ (b <<< (a.log2 - b.log2))) b else a

/-- `clmod(a, b)`, for `b ≠ 0`: the remainder of polynomial division over GF(2) (00_scope R20; log 24
for `b = 0`, which no rule asks for). -/
def clmod (a b : Nat) : Nat := clmodLoop (a.log2 + 1) a b

/-- `clog2(x)`, for `x ≥ 1`: the least `e` with `2^e ≥ x` (00_scope R20; log 24 for `x = 0`). -/
def clog2 (x : Nat) : Nat := if x ≤ 1 then 0 else (x - 1).log2 + 1

/-- `flog2(x)`, for `x ≥ 1`: the greatest `e` with `2^e ≤ x` (00_scope R20; log 24 for `x = 0`). -/
def flog2 (x : Nat) : Nat := x.log2

/-- `ispow2(j)`, for `j ≥ 1` (00_scope R20; log 24 for `j = 0`). -/
def ispow2 (j : Nat) : Bool := j &&& (j - 1) == 0

end Sys2Proof.Machine

namespace Sys2Proof.BVec

open Sys2Proof.Machine

/-- A BitVector that a vector register can hold: 0 ≤ L ≤ W and v < 2^L (00_scope R7, R14). -/
abbrev Fits (a : BVec) : Prop := a.len ≤ Config.W ∧ a.val < 2 ^ a.len

/-- Element `i`: bit L - 1 - i of the value (00_scope R14). For `i ≥ L`, which R14 leaves undefined, bit 0
(DESIGN CHOICE, log 24). -/
def elem (a : BVec) (i : Nat) : Bool := a.val.testBit (a.len - 1 - i)

/-- `pad_M(a)`: left-zero-padding to length `m`, the value unchanged (00_scope R17). For `m < L`, which R17
leaves undefined, the value stays uncut (DESIGN CHOICE, log 24). -/
def pad (m : Nat) (a : BVec) : BVec := ⟨m, a.val⟩

/-- `deg(a)`: the degree of the polynomial, not defined for the zero polynomial (00_scope R18). -/
def deg (a : BVec) : Option Nat := if a.val = 0 then none else some a.val.log2

/-- `weight(a)`: the count of 1-bits (41 R124). -/
def weight (a : BVec) : Nat := popcount a.val

/-- `xor_add(a, b)` (41 R121). -/
def xorAdd (a b : BVec) : BVec := ⟨max a.len b.len, a.val ^^^ b.val⟩

/-- `multiply(a, b)`, with its two errors in the order of 41 R122. -/
def multiply (a b : BVec) : Except ErrCode BVec :=
  if a.len = 0 ∨ b.len = 0 then .error .invalidInput
  else if Config.W < a.len + b.len - 1 then .error .capacityExceeded
  else .ok ⟨a.len + b.len - 1, clmul a.val b.val⟩

/-- `mod_divide(dividend, divisor)` for a divisor whose value is not 0 (41 R123). The commands raise
DivisionByZero before they call it. -/
def modDivide (a b : BVec) : BVec := ⟨b.len - 1, clmod a.val b.val⟩

/-- `rotl(a)`: one cyclic shift toward element 0 (41 R125). -/
def rotl (a : BVec) : BVec :=
  if a.len = 0 then ⟨0, 0⟩
  else ⟨a.len, (a.val <<< 1 ||| a.val >>> (a.len - 1)) &&& (2 ^ a.len - 1)⟩

/-- `rotr(a)`: one cyclic shift away from element 0 (41 R126). -/
def rotr (a : BVec) : BVec :=
  if a.len = 0 then ⟨0, 0⟩
  else ⟨a.len, a.val >>> 1 ||| (a.val &&& 1) <<< (a.len - 1)⟩

/-- `repeat c times: x <- rotr(x)` (45 R211). -/
def rotrTimes : Nat → BVec → BVec
  | 0, x => x
  | c + 1, x => rotrTimes c (rotr x)

/-- `repeat c times: x <- rotl(x)` (41 R128, 45 R211). -/
def rotlTimes : Nat → BVec → BVec
  | 0, x => x
  | c + 1, x => rotlTimes c (rotl x)

/-- `mul_x_pow(a, r)`: `r` zero elements appended (41 R127). -/
def mulXPow (a : BVec) (r : Nat) : BVec := ⟨a.len + r, a.val <<< r⟩

/-- The BitVector with element `i` inverted (45 R212); for `i ≥ L` bit 0 is (DESIGN CHOICE, log 24). -/
def flip (a : BVec) (i : Nat) : BVec := ⟨a.len, a.val ^^^ 2 ^ (a.len - 1 - i)⟩

end Sys2Proof.BVec
end

