-- ==== Sys2Proof/Machine/Operands.lean ====
section
/-! DEFINITION. The operand forms: reading a vector register as a BitVector, writing a BitVector to a
vector register, and the numbers held in the parameter registers (10_state R34, R35, R43 to R49). -/

namespace Sys2Proof.Machine

/-- A number as a 32-bit register holds it. -/
def wordOf (x : Nat) : Word := BitVec.ofNat 32 x

/-- The operand value of a vector register: (LEN, DATA mod 2^LEN) (10_state R34). -/
def VReg.toBVec (v : VReg) : BVec := ⟨v.len.val, v.data.toNat % 2 ^ v.len.val⟩

/-- The register a command write of `(L, v)` leaves: LEN is L and DATA is v (10_state R35). A result
longer than W never comes here in a state that a run reaches (log 13). -/
def VReg.ofBVec (a : BVec) : VReg := ⟨⟨min a.len 64, by omega⟩, BitVec.ofNat 64 a.val⟩

/-- The stored vector register `i`. -/
def State.vreg (s : State) (i : VIdx) : VReg := s.vregs[i]

/-- The state with vector register `i` replaced. -/
def State.setVreg (s : State) (i : VIdx) (v : VReg) : State := { s with vregs := s.vregs.set i v }

/-- `V[i]`: the operand read (00_scope R21, 10_state R34). -/
def State.vec (s : State) (i : VIdx) : BVec := (s.vreg i).toBVec

/-- `V[i] <- a`: the command write (00_scope R21, 10_state R35). -/
def State.setVec (s : State) (i : VIdx) (a : BVec) : State := s.setVreg i (VReg.ofBVec a)

/-- PK as a number (10_state R43). -/
def State.pk (s : State) : Nat := s.params.k.toNat
/-- PR as a number (10_state R44). -/
def State.pr (s : State) : Nat := s.params.r.toNat
/-- PN as a number (10_state R45). -/
def State.pn (s : State) : Nat := s.params.n.toNat
/-- PS as a number (10_state R46). -/
def State.ps (s : State) : Nat := s.params.s.toNat
/-- PH as a number (10_state R47). -/
def State.ph (s : State) : Nat := s.params.h.toNat
/-- PKREQ as a number (10_state R48). -/
def State.pkreq (s : State) : Nat := s.params.kreq.toNat

end Sys2Proof.Machine
end

