-- ==== Sys2Proof/Machine/Ops.lean ====
section
/-! DEFINITION. The shared operations: reset, accepting a command, and completing one, with success or
with an error (60_exceptions R254, R255, 70_reset_and_hazards R280 to R283). -/

namespace Sys2Proof.Machine

/-- A reset of CORE: every state element at the value of 10_state R55 (70_reset_and_hazards R280). The
configuration is unchanged (R55, 00_scope R12). The turns still to come and the bus's latest answer belong to the outside and stay (log 16). -/
def State.resetCore (s : State) : State :=
  { State.reset with tables := s.tables, schedule := s.schedule, lastResponse := s.lastResponse }

/-- Acceptance of a command word (70_reset_and_hazards R283 (a)). -/
def State.accept (s : State) (w : Word) : State :=
  { s with cmd := w, busy := true, done := false, err := .ok }

/-- What a command that succeeds writes: at most one vector register, RESULT, and, for some commands, the
parameter registers or DSTAT (60_exceptions R255, 10_state R37, R39, R50). The rule of a command computes
all of it before anything is written (10_state R37, 60_exceptions R256). -/
structure Writes where
  vec : Option (VIdx × BVec)
  result : Nat
  params : Option Params
  dstat : Option DStat
  deriving DecidableEq, Repr

/-- The outcome of a command's rule: `raise Err(code)`, or the writes with which it completes
(00_scope R21). -/
abbrev Effect := Except ErrCode Writes

/-- Completion with an error: STATUS only, ERR ← code, DONE ← 1, BUSY ← 0 (60_exceptions R254). It is the
whole of what an error does: no vector, no saved state, no return from it (R253, R257). -/
def State.fail (s : State) (c : ErrCode) : State := { s with err := c, done := true, busy := false }

/-- The vector registers after the write `w.vec` of a command. -/
def State.writeVec (s : State) : Option (VIdx × BVec) → State
  | some (rd, a) => s.setVec rd a
  | none => s

/-- Completion with success: ERR ← 0, DONE ← 1, BUSY ← 0 and the command's writes, all in one step
(60_exceptions R255, 20_memory R81). -/
def State.succeed (s : State) (w : Writes) : State :=
  { s.writeVec w.vec with
    err := .ok
    done := true
    busy := false
    result := wordOf w.result
    params := w.params.getD s.params
    dstat := w.dstat.getD s.dstat }

/-- The state in which a command completes, from what its rule gives. -/
def State.complete (s : State) : Effect → State
  | .ok w => s.succeed w
  | .error c => s.fail c

/-- Completion as the outcome of a step: a command always completes (70_reset_and_hazards R288). -/
def finish (e : Effect) (s : State) : Host.Outcome State Fault Refusal := .next (s.complete e)

/-- Success with a vector result and a scalar result. -/
def writesVec (rd : VIdx) (a : BVec) (result : Nat) : Effect := .ok ⟨some (rd, a), result, none, none⟩

/-- Success of a decode command: a vector result, a scalar result and a decode status (45 R210). -/
def writesDecoded (rd : VIdx) (a : BVec) (d : DStat) (result : Nat) : Effect :=
  .ok ⟨some (rd, a), result, none, some d⟩

/-- Success of a resolver command: the parameter registers and a scalar result (42 R150). -/
def writesParams (p : Params) (result : Nat) : Effect := .ok ⟨none, result, some p, none⟩

/-- The condition that the session has the Hamming shape (46 R230). -/
def Params.hamOK (p : Params) : Bool :=
  p.mode == .formula && p.n.toNat == p.k.toNat + p.r.toNat && decide (1 ≤ p.r.toNat) &&
    flog2 p.n.toNat + 1 == p.r.toNat

end Sys2Proof.Machine
end

