-- ==== Sys2Proof/Machine/Bus.lean ====
section
/-! DEFINITION. The register window: the register map, the value each register reads as, what a write
of each register does, and the host's two accesses (20_memory R70 to R79, 10_state R31 to R50,
70_reset_and_hazards R281, R284, R285). -/

namespace Sys2Proof.Machine

/-- A register of the window (20_memory R71). -/
inductive Reg where
  | id
  | ctrl
  | status
  | cmd
  | result
  | pk
  | pr
  | pn
  | ps
  | ph
  | pkreq
  | pmode
  | vlen (i : VIdx)
  | vdlo (i : VIdx)
  | vdhi (i : VIdx)
  | reserved
  deriving DecidableEq, Repr

/-- The vector register whose four words hold byte offset `off`, at 0x100 + 0x10·i (20_memory R71). -/
def vecIndexAt (off : Nat) : VIdx := Fin.ofNat 8 ((off - 0x100) / 0x10)

/-- The register map for an aligned offset of the window (20_memory R71). -/
def regAt (off : Nat) : Reg :=
  if 0x100 ≤ off ∧ off < 0x180 then
    match off % 0x10 with
    | 0x0 => .vlen (vecIndexAt off)
    | 0x4 => .vdlo (vecIndexAt off)
    | 0x8 => .vdhi (vecIndexAt off)
    | _ => .reserved
  else
    match off with
    | 0x000 => .id
    | 0x004 => .ctrl
    | 0x008 => .status
    | 0x00C => .cmd
    | 0x010 => .result
    | 0x020 => .pk
    | 0x024 => .pr
    | 0x028 => .pn
    | 0x02C => .ps
    | 0x030 => .ph
    | 0x034 => .pkreq
    | 0x038 => .pmode
    | _ => .reserved

/-- DATA bits [31:0] (10_state R36). -/
def dataLow (d : VData) : Word := d.extractLsb' 0 32
/-- DATA bits [63:32] (10_state R36). -/
def dataHigh (d : VData) : Word := d.extractLsb' 32 32

/-- The read value of a register (20_memory R71, R73, R76). -/
def State.readReg (s : State) : Reg → Word
  | .id => Config.idWord
  | .ctrl => s.ctrlWord
  | .status => s.statusWord
  | .cmd => s.cmd
  | .result => s.result
  | .pk => s.params.k
  | .pr => s.params.r
  | .pn => s.params.n
  | .ps => s.params.s
  | .ph => s.params.h
  | .pkreq => s.params.kreq
  | .pmode => wordOf s.params.mode.code
  | .vlen i => wordOf (s.vreg i).len
  | .vdlo i => dataLow (s.vreg i).data
  | .vdhi i => dataHigh (s.vreg i).data
  | .reserved => 0#32

/-- A host write of CTRL: bit 1 = 1 is the soft reset, else bit 0 is IE (10_state R32,
70_reset_and_hazards R281). -/
def State.writeCtrl (s : State) (v : Word) : State :=
  if v.getLsbD 1 then s.resetCore else { s with ie := v.getLsbD 0 }

/-- A host write of STATUS: a 1 in bit 1 clears DONE, a 1 in bit 2 clears OVR (10_state R38). -/
def State.writeStatus (s : State) (v : Word) : State :=
  { s with done := s.done && !v.getLsbD 1, ovr := s.ovr && !v.getLsbD 2 }

/-- The interlock: while BUSY = 1 the write is ignored and sets OVR; else it is `f` of the state
(70_reset_and_hazards R284). -/
def State.interlocked (s : State) (f : State → State) : State :=
  if s.busy then { s with ovr := true } else f s

/-- LEN ← min(w, 64) (10_state R36). -/
def VReg.setLen (r : VReg) (v : Word) : VReg := { r with len := ⟨min v.toNat 64, by omega⟩ }
/-- DATA bits [31:0] ← the word (10_state R36). -/
def VReg.setLow (r : VReg) (v : Word) : VReg := { r with data := dataHigh r.data ++ v }
/-- DATA bits [63:32] ← the word (10_state R36). -/
def VReg.setHigh (r : VReg) (v : Word) : VReg := { r with data := v ++ dataLow r.data }

/-- A host write of a register (20_memory R71, R76, 10_state R31 to R50). Read-only and reserved
registers ignore it. -/
def State.writeReg (s : State) (r : Reg) (v : Word) : State :=
  match r with
  | .ctrl => s.writeCtrl v
  | .status => s.writeStatus v
  | .cmd => s.interlocked fun s => s.accept v
  | .vlen i => s.interlocked fun s => s.setVreg i ((s.vreg i).setLen v)
  | .vdlo i => s.interlocked fun s => s.setVreg i ((s.vreg i).setLow v)
  | .vdhi i => s.interlocked fun s => s.setVreg i ((s.vreg i).setHigh v)
  | .id => s
  | .result => s
  | .pk => s
  | .pr => s
  | .pn => s
  | .ps => s
  | .ph => s
  | .pkreq => s
  | .pmode => s
  | .reserved => s

/-- The accesses CORE accepts: 32 bits wide at a multiple of 4 (20_memory R72). -/
def accepted (off size : Nat) : Bool := size == 32 && off % 4 == 0

/-- `BusRead(off)`: the register's read value; an error response that returns 0 for an access CORE does
not accept (20_memory R73, R75; log 3); a fault outside the window (log 4). -/
def busRead (off size : Nat) (s : State) : Host.Outcome State Fault Refusal :=
  if Config.windowBytes ≤ off then .fault (.outsideWindow off)
  else if accepted off size then .next { s with lastResponse := .readData (s.readReg (regAt off)) }
  else .next { s with lastResponse := .readError 0#32 }

/-- `BusWrite(off, v)`: the register's write rule; an error response and no effect for an access CORE does
not accept (20_memory R73, R75; log 3); a fault outside the window (log 4). An accepted write is answered normally,
also when its rule or the interlock ignores it (R71, R76; log 25). -/
def busWrite (off size : Nat) (v : Word) (s : State) : Host.Outcome State Fault Refusal :=
  if Config.windowBytes ≤ off then .fault (.outsideWindow off)
  else if accepted off size then .next { s.writeReg (regAt off) v with lastResponse := .writeDone }
  else .next { s with lastResponse := .writeError }

/-- The byte offset in the window of a platform address (20_memory R70). -/
def windowOffset (addr : Nat) : Option Nat :=
  if Config.coreBase ≤ addr ∧ addr < Config.coreBase + Config.windowBytes then some (addr - Config.coreBase)
  else none

/-- The byte at `off` of the window as a host that addresses bytes sees it: byte `off % 4` of the register
that holds it, little-endian (20_memory R74). Outside the window, where there is no byte, 0 (DESIGN CHOICE, log 4). -/
def State.windowByte (s : State) (off : Nat) : Byte := wordByte (s.readReg (regAt (off / 4 * 4))) (off % 4)

end Sys2Proof.Machine
end

