-- ==== Sys2Proof/Machine/Arithmetic.lean ====
section
/-! DEFINITION. The gf2_polynomial_arith unit: XOR, MUL, MOD, WGT, ROTL, ROTR, SHLX
(41_gf2_polynomial_arith R120 to R129). -/

namespace Sys2Proof.Machine

/-- XOR (41 R121). -/
def xorEffect (rd : VIdx) (a b : BVec) : Effect := writesVec rd (a.xorAdd b) (max a.len b.len)

/-- MUL (41 R122): the errors are those of `multiply`. -/
def mulEffect (rd : VIdx) (a b : BVec) : Effect :=
  match a.multiply b with
  | .error c => .error c
  | .ok p => writesVec rd p p.len

/-- MOD (41 R123). -/
def modEffect (rd : VIdx) (a b : BVec) : Effect :=
  if b.val = 0 then .error .divisionByZero else writesVec rd (a.modDivide b) (b.len - 1)

/-- WGT (41 R124): RESULT only. -/
def wgtEffect (a : BVec) : Effect := .ok ⟨none, a.weight, none, none⟩

/-- ROTL (41 R125). -/
def rotlEffect (rd : VIdx) (a : BVec) : Effect := writesVec rd a.rotl a.len

/-- ROTR (41 R126). -/
def rotrEffect (rd : VIdx) (a : BVec) : Effect := writesVec rd a.rotr a.len

/-- SHLX (41 R127). -/
def shlxEffect (rd : VIdx) (a : BVec) (r : Nat) : Effect :=
  if Config.W < a.len + r then .error .capacityExceeded else writesVec rd (a.mulXPow r) (a.len + r)

/-- The meaning of `xor vd, va, vb` (41 R121). -/
def execXor (rd ra rb : VIdx) (s : State) : Host.Outcome State Fault Refusal :=
  finish (xorEffect rd (s.vec ra) (s.vec rb)) s

/-- The meaning of `mul vd, va, vb` (41 R122). -/
def execMul (rd ra rb : VIdx) (s : State) : Host.Outcome State Fault Refusal :=
  finish (mulEffect rd (s.vec ra) (s.vec rb)) s

/-- The meaning of `mod vd, va, vb` (41 R123). -/
def execMod (rd ra rb : VIdx) (s : State) : Host.Outcome State Fault Refusal :=
  finish (modEffect rd (s.vec ra) (s.vec rb)) s

/-- The meaning of `wgt va` (41 R124). -/
def execWgt (ra : VIdx) (s : State) : Host.Outcome State Fault Refusal :=
  finish (wgtEffect (s.vec ra)) s

/-- The meaning of `rotl vd, va` (41 R125). -/
def execRotl (rd ra : VIdx) (s : State) : Host.Outcome State Fault Refusal :=
  finish (rotlEffect rd (s.vec ra)) s

/-- The meaning of `rotr vd, va` (41 R126). -/
def execRotr (rd ra : VIdx) (s : State) : Host.Outcome State Fault Refusal :=
  finish (rotrEffect rd (s.vec ra)) s

/-- The meaning of `shlx vd, va, r` (41 R127). -/
def execShlx (rd ra : VIdx) (r : Nat) (s : State) : Host.Outcome State Fault Refusal :=
  finish (shlxEffect rd (s.vec ra) r) s

end Sys2Proof.Machine
end

