-- ==== Sys2Proof/Machine/Matrix.lean ====
section
/-! DEFINITION. The parity-check matrix H and the generator matrix G of the Hamming-style code, as functions
of k = PK, r = PR and n = PN (46_hamming_ecc_engine R231, R232, 10_state R53). Positions, rows and columns
are numbered from 1. -/

namespace Sys2Proof.Machine

/-- The numbers of 1..n that are not powers of two, ascending: J of 46 R231. -/
def nonPowers (n : Nat) : List Nat := (List.range' 1 n).filter fun j => !ispow2 j

/-- `colval(p)` (46 R231): column p of A for p ≤ k, an identity column after it. R231 defines it for 1 ≤ p ≤ n
only (DESIGN CHOICE outside, log 24). -/
def colval (k r p : Nat) : Nat :=
  if p ≤ k then (nonPowers (k + r)).getD (p - 1) 0 else 2 ^ (r - (p - k))

/-- `H[i][p]`: bit r - i of colval(p) (46 R231), which defines it for 1 ≤ i ≤ r only (DESIGN CHOICE outside,
log 24). -/
def hEntry (k r i p : Nat) : Bool := (colval k r p).testBit (r - i)

/-- The XOR of colval(p) over the positions p of `ps` whose element p - 1 of `w` is 1. -/
def xorColumns (k r : Nat) (w : BVec) (ps : List Nat) : Nat :=
  ps.foldl (fun acc p => if w.elem (p - 1) then acc ^^^ colval k r p else acc) 0

/-- The matrix syndrome w·Hᵗ as an r-bit number (45 R212, 46 R233, R234). -/
def matSyndrome (k r n : Nat) (w : BVec) : Nat := xorColumns k r w (List.range' 1 n)

/-- The codeword α·G: α, then the XOR of the columns that α selects (44 R192). -/
def matCodeword (k r n : Nat) (a : BVec) : BVec :=
  ⟨n, a.val <<< r ||| xorColumns k r a (List.range' 1 k)⟩

/-- Row i of H as a BitVector of length n (46 R235). -/
def hRow (k r n i : Nat) : BVec :=
  ⟨n, (List.range' 1 n).foldl (fun v p => v * 2 + (hEntry k r i p).toNat) 0⟩

/-- Column p of H as a BitVector of length r (46 R231, R236). -/
def hCol (k r p : Nat) : BVec := ⟨r, colval k r p⟩

/-- Row q of G as a BitVector of length n (46 R232, R237). -/
def gRow (k r n q : Nat) : BVec := ⟨n, 2 ^ (k - q) <<< r ||| colval k r q⟩

end Sys2Proof.Machine
end

