-- ==== Sys2Proof/Machine/Decoder.lean ====
section
/-! DEFINITION. The syndrome_decoder unit: DEC.CYC, DEC.MAT (45_syndrome_decoder R210 to R214). -/

namespace Sys2Proof.Machine

/-- The cyclic-shift search (45 R211): `left` more rounds, at shift count `c` and current word `cur`.
Answers the shift count and the corrected word at the first syndrome of weight at most `t`. -/
def cyclicSearch (g : BVec) (t : Nat) : Nat → Nat → BVec → Option (Nat × BVec)
  | 0, _, _ => none
  | left + 1, c, cur =>
    if (cur.modDivide g).weight ≤ t then some (c, (cur.xorAdd (cur.modDivide g)).rotrTimes c)
    else cyclicSearch g t left (c + 1) cur.rotl

/-- DEC.CYC (45 R211). -/
def decCycEffect (rd : VIdx) (w g : BVec) (t : Nat) : Effect :=
  if w.len < g.len - 1 then .error .invalidInput
  else if g.val = 0 then .error .divisionByZero
  else if (w.modDivide g).val = 0 then writesDecoded rd w .noError 0
  else match cyclicSearch g t w.len 0 w with
    | some (c, x) => writesDecoded rd x .corrected c
    | none => writesDecoded rd w .uncorrectable w.len

/-- The position whose column of H is `syn` (45 R212). -/
def columnPosition (k r n syn : Nat) : Option Nat :=
  (List.range' 1 n).find? fun p => colval k r p == syn

/-- DEC.MAT (45 R212). -/
def decMatEffect (p : Params) (rd : VIdx) (w : BVec) : Effect :=
  if ¬ p.hamOK then .error .sessionError
  else if w.len ≠ p.n.toNat then .error .invalidInput
  else
    let syn := matSyndrome p.k.toNat p.r.toNat p.n.toNat w
    if syn = 0 then writesDecoded rd w .noError 0
    else match columnPosition p.k.toNat p.r.toNat p.n.toNat syn with
      | some q => writesDecoded rd (w.flip (q - 1)) .corrected q
      | none => writesDecoded rd w .undeterminedError 0

/-- The meaning of `dec.cyc vd, vw, vg, t` (45 R211). -/
def execDecCyc (rd ra rb : VIdx) (t : Nat) (s : State) : Host.Outcome State Fault Refusal :=
  finish (decCycEffect rd (s.vec ra) (s.vec rb) t) s

/-- The meaning of `dec.mat vd, vw` (45 R212). -/
def execDecMat (rd ra : VIdx) (s : State) : Host.Outcome State Fault Refusal :=
  finish (decMatEffect s.params rd (s.vec ra)) s

end Sys2Proof.Machine
end

