-- ==== Sys2Proof/Machine/Encoder.lean ====
section
/-! DEFINITION. The systematic_encoder unit: ENC.POLY, ENC.MAT, INFO
(44_systematic_encoder R190 to R194). -/

namespace Sys2Proof.Machine

/-- The codeword of the polynomial form: α padded to k, shifted by x^r, plus the remainder mod g
(44 R191). -/
def polyCodeword (k r : Nat) (a g : BVec) : BVec :=
  let m := (a.pad k).mulXPow r
  m.xorAdd (m.modDivide g)

/-- ENC.POLY (44 R191). -/
def encPolyEffect (p : Params) (rd : VIdx) (a g : BVec) : Effect :=
  if p.mode = .none then .error .sessionError
  else if g.len ≠ p.r.toNat + 1 then .error .invalidInput
  else if a.len ≠ p.kreq.toNat ∧ a.len ≠ p.k.toNat then .error .invalidInput
  else if g.val = 0 then .error .divisionByZero
  else writesVec rd (polyCodeword p.k.toNat p.r.toNat a g) p.n.toNat

/-- ENC.MAT (44 R192). -/
def encMatEffect (p : Params) (rd : VIdx) (a : BVec) : Effect :=
  if ¬ p.hamOK then .error .sessionError
  else if a.len ≠ p.k.toNat then .error .invalidInput
  else writesVec rd (matCodeword p.k.toNat p.r.toNat p.n.toNat a) p.n.toNat

/-- The information elements PK - PKREQ to PK - 1 of a codeword (44 R193). -/
def infoWord (kreq r : Nat) (c : BVec) : BVec := ⟨kreq, (c.val >>> r) % 2 ^ kreq⟩

/-- INFO (44 R193). -/
def infoEffect (p : Params) (rd : VIdx) (c : BVec) : Effect :=
  if p.mode = .none then .error .sessionError
  else if c.len ≠ p.n.toNat then .error .invalidInput
  else writesVec rd (infoWord p.kreq.toNat p.r.toNat c) p.kreq.toNat

/-- The meaning of `enc.poly vd, va, vg` (44 R191). -/
def execEncPoly (rd ra rb : VIdx) (s : State) : Host.Outcome State Fault Refusal :=
  finish (encPolyEffect s.params rd (s.vec ra) (s.vec rb)) s

/-- The meaning of `enc.mat vd, va` (44 R192). -/
def execEncMat (rd ra : VIdx) (s : State) : Host.Outcome State Fault Refusal :=
  finish (encMatEffect s.params rd (s.vec ra)) s

/-- The meaning of `info vd, va` (44 R193). -/
def execInfo (rd ra : VIdx) (s : State) : Host.Outcome State Fault Refusal :=
  finish (infoEffect s.params rd (s.vec ra)) s

end Sys2Proof.Machine
end

