-- ==== Sys2Proof/Machine/Hamming.lean ====
section
/-! DEFINITION. The hamming_ecc_engine unit: SYNM, HROW, HCOL, GROW (46_hamming_ecc_engine R230 to R238). -/

namespace Sys2Proof.Machine

/-- SYNM (46 R234). -/
def synmEffect (p : Params) (rd : VIdx) (w : BVec) : Effect :=
  if ¬ p.hamOK then .error .sessionError
  else if w.len ≠ p.n.toNat then .error .invalidInput
  else writesVec rd ⟨p.r.toNat, matSyndrome p.k.toNat p.r.toNat p.n.toNat w⟩ p.r.toNat

/-- HROW (46 R235). -/
def hrowEffect (p : Params) (rd : VIdx) (i : Nat) : Effect :=
  if ¬ p.hamOK then .error .sessionError
  else if i < 1 ∨ p.r.toNat < i then .error .invalidInput
  else writesVec rd (hRow p.k.toNat p.r.toNat p.n.toNat i) p.n.toNat

/-- HCOL (46 R236). -/
def hcolEffect (p : Params) (rd : VIdx) (q : Nat) : Effect :=
  if ¬ p.hamOK then .error .sessionError
  else if q < 1 ∨ p.n.toNat < q then .error .invalidInput
  else writesVec rd (hCol p.k.toNat p.r.toNat q) p.r.toNat

/-- GROW (46 R237). -/
def growEffect (p : Params) (rd : VIdx) (q : Nat) : Effect :=
  if ¬ p.hamOK then .error .sessionError
  else if q < 1 ∨ p.k.toNat < q then .error .invalidInput
  else writesVec rd (gRow p.k.toNat p.r.toNat p.n.toNat q) p.n.toNat

/-- The meaning of `synm vd, vw` (46 R234). -/
def execSynm (rd ra : VIdx) (s : State) : Host.Outcome State Fault Refusal :=
  finish (synmEffect s.params rd (s.vec ra)) s

/-- The meaning of `hrow vd, i` (46 R235). -/
def execHrow (rd : VIdx) (i : Nat) (s : State) : Host.Outcome State Fault Refusal :=
  finish (hrowEffect s.params rd i) s

/-- The meaning of `hcol vd, p` (46 R236). -/
def execHcol (rd : VIdx) (p : Nat) (s : State) : Host.Outcome State Fault Refusal :=
  finish (hcolEffect s.params rd p) s

/-- The meaning of `grow vd, q` (46 R237). -/
def execGrow (rd : VIdx) (q : Nat) (s : State) : Host.Outcome State Fault Refusal :=
  finish (growEffect s.params rd q) s

end Sys2Proof.Machine
end

