-- ==== Sys2Proof/Machine/Resolver.lean ====
section
/-! DEFINITION. The bch_parameter_resolver unit: RSLV.H, RSLV.BCH, CLRP
(42_bch_parameter_resolver R150 to R160). -/

namespace Sys2Proof.Machine

/-- The redundancy of the formula resolver: ⌈log2(k + 1 + ⌈log2(k + 1)⌉)⌉ (42 R151). -/
def hammingRedundancy (k : Nat) : Nat := clog2 (k + 1 + clog2 (k + 1))

/-- The parameter registers of a session that RSLV.H starts (42 R151). -/
def formulaSession (k : Nat) : Params where
  k := wordOf k
  r := wordOf (hammingRedundancy k)
  n := wordOf (k + hammingRedundancy k)
  s := wordOf 0
  h := wordOf (clog2 (k + hammingRedundancy k + 1))
  kreq := wordOf k
  mode := .formula

/-- RSLV.H (42 R151). -/
def rslvHEffect (k : Nat) : Effect :=
  if k = 0 then .error .invalidInput
  else if Config.W < k + hammingRedundancy k + 1 then .error .noSuitableParameters
  else writesParams (formulaSession k) (k + hammingRedundancy k)

/-- The parameter registers of a session that RSLV.BCH starts from the table entry `e` (42 R153). -/
def bchSession (k : Nat) (e : Config.BchEntry) : Params where
  k := wordOf e.k
  r := wordOf e.r
  n := wordOf e.n
  s := wordOf e.s
  h := wordOf (clog2 (e.n + 1))
  kreq := wordOf k
  mode := .bch

/-- The first entry of the table with k_table ≥ k and s_table ≥ s (42 R153). -/
def firstBchEntry (table : List Config.BchEntry) (k s : Nat) : Option Config.BchEntry :=
  table.find? fun e => decide (k ≤ e.k) && decide (s ≤ e.s)

/-- RSLV.BCH under the configuration `cfg` (42 R153). -/
def rslvBchEffect (cfg : Config.Tables) (k s : Nat) : Effect :=
  if k = 0 then .error .invalidInput
  else match firstBchEntry cfg.bchTable k s with
    | some e => writesParams (bchSession k e) e.n
    | none => .error .noSuitableParameters

/-- CLRP (42 R156). -/
def clrpEffect : Effect := writesParams Params.noSession 0

/-- The meaning of `rslv.h k` (42 R151). -/
def execRslvH (k : Nat) (s : State) : Host.Outcome State Fault Refusal := finish (rslvHEffect k) s

/-- The meaning of `rslv.bch k, s` (42 R153). -/
def execRslvBch (k sReq : Nat) (s : State) : Host.Outcome State Fault Refusal :=
  finish (rslvBchEffect s.tables k sReq) s

/-- The meaning of `clrp` (42 R156). -/
def execClrp (s : State) : Host.Outcome State Fault Refusal := finish clrpEffect s

end Sys2Proof.Machine
end

