-- ==== Sys2Proof/Machine/Synthesizer.lean ====
section
/-! DEFINITION. The generator_polynomial_synthesizer unit: SYN.CYC, SYN.BCH
(43_generator_polynomial_synthesizer R170 to R176). -/

namespace Sys2Proof.Machine

/-- A candidate's acceptance: weight at least `wmin`, and it divides x^n + 1 (43 R171, R172). -/
def accepts (wmin n v : Nat) : Bool := decide (wmin ≤ popcount v) && clmod (2 ^ n + 1) v == 0

/-- The first accepted value among `count` candidates from `v` upward (43 R172: ascending value). -/
def scanCandidates (wmin n : Nat) : Nat → Nat → Option Nat
  | 0, _ => none
  | count + 1, v => if accepts wmin n v then some v else scanCandidates wmin n count (v + 1)

/-- The search over degrees, `rounds` of them from `r` upward: the degree and the value of the first
accepted candidate. It stops where x^n + 1 no longer fits (43 R172). -/
def searchDegrees (wmin k : Nat) : Nat → Nat → Option (Nat × Nat)
  | 0, _ => none
  | rounds + 1, r =>
    if Config.W < k + r + 1 then none
    else match scanCandidates wmin (k + r) (2 ^ r) (2 ^ r) with
      | some v => some (r, v)
      | none => searchDegrees wmin k rounds (r + 1)

/-- The parameter registers after SYN.CYC has found a generator of degree `r` (43 R172): PR, PN and PH are
written, the others kept. -/
def widenedSession (p : Params) (r : Nat) : Params :=
  { p with
    r := wordOf r
    n := wordOf (p.k.toNat + r)
    h := wordOf (clog2 (p.k.toNat + r + 1)) }

/-- SYN.CYC under the configuration `cfg` (43 R172). -/
def synCycEffect (cfg : Config.Tables) (p : Params) (rd : VIdx) (wmin : Nat) : Effect :=
  if p.mode ≠ .formula then .error .sessionError
  else match searchDegrees wmin p.k.toNat (cfg.genMaxDegree + 1 - p.r.toNat) p.r.toNat with
    | some (r, v) => .ok ⟨some (rd, ⟨r + 1, v⟩), r, some (widenedSession p r), none⟩
    | none => .error .noGeneratorFound

/-- The indices 1, 3, 5, …, 2·s - 1 (43 R174). -/
def oddIndices (s : Nat) : List Nat := (List.range s).map fun j => 2 * j + 1

/-- The product of the minimal polynomials of the given indices, in their order, times `g` (43 R174). The
errors are checked once per index, in index order. -/
def minPolyProduct (cfg : Config.Tables) (h : Nat) : List Nat → BVec → Except ErrCode BVec
  | [], g => .ok g
  | i :: is, g =>
    match cfg.minPolyAt h i with
    | none => .error .missingMinimalPolynomial
    | some p =>
      if Config.W < g.len + p.len - 1 then .error .capacityExceeded
      else match g.multiply p with
        | .error c => .error c
        | .ok q => minPolyProduct cfg h is q

/-- SYN.BCH under the configuration `cfg` (43 R174), with its post-check. -/
def synBchEffect (cfg : Config.Tables) (p : Params) (rd : VIdx) : Effect :=
  if p.mode ≠ .bch then .error .sessionError
  else match minPolyProduct cfg p.h.toNat (oddIndices p.s.toNat) ⟨1, 1⟩ with
    | .error c => .error c
    | .ok g =>
      if g.len - 1 ≠ p.r.toNat ∨ clmod (2 ^ p.n.toNat + 1) g.val ≠ 0 then .error .noGeneratorFound
      else writesVec rd g p.r.toNat

/-- The meaning of `syn.cyc vd, wmin` (43 R172). -/
def execSynCyc (rd : VIdx) (wmin : Nat) (s : State) : Host.Outcome State Fault Refusal :=
  finish (synCycEffect s.tables s.params rd wmin) s

/-- The meaning of `syn.bch vd` (43 R174). -/
def execSynBch (rd : VIdx) (s : State) : Host.Outcome State Fault Refusal :=
  finish (synBchEffect s.tables s.params rd) s

end Sys2Proof.Machine
end

