-- ==== Sys2Proof/Machine/Dispatch.lean ====
section
/-! DEFINITION. The completion of a decoded command: one arm per command, each one call of its meaning. -/

namespace Sys2Proof.Machine

def exec (i : Instr) (s : State) : Host.Outcome State Fault Refusal :=
  match i with
  | .xor rd ra rb => Sys2Proof.Machine.execXor rd ra rb s
  | .mul rd ra rb => Sys2Proof.Machine.execMul rd ra rb s
  | .mod rd ra rb => Sys2Proof.Machine.execMod rd ra rb s
  | .wgt ra => Sys2Proof.Machine.execWgt ra s
  | .rotl rd ra => Sys2Proof.Machine.execRotl rd ra s
  | .rotr rd ra => Sys2Proof.Machine.execRotr rd ra s
  | .shlx rd ra r => Sys2Proof.Machine.execShlx rd ra r s
  | .rslvH k => Sys2Proof.Machine.execRslvH k s
  | .rslvBch k sReq => Sys2Proof.Machine.execRslvBch k sReq s
  | .clrp => Sys2Proof.Machine.execClrp s
  | .synCyc rd wmin => Sys2Proof.Machine.execSynCyc rd wmin s
  | .synBch rd => Sys2Proof.Machine.execSynBch rd s
  | .encPoly rd ra rb => Sys2Proof.Machine.execEncPoly rd ra rb s
  | .encMat rd ra => Sys2Proof.Machine.execEncMat rd ra s
  | .info rd ra => Sys2Proof.Machine.execInfo rd ra s
  | .decCyc rd ra rb t => Sys2Proof.Machine.execDecCyc rd ra rb t s
  | .decMat rd ra => Sys2Proof.Machine.execDecMat rd ra s
  | .synm rd ra => Sys2Proof.Machine.execSynm rd ra s
  | .hrow rd row => Sys2Proof.Machine.execHrow rd row s
  | .hcol rd p => Sys2Proof.Machine.execHcol rd p s
  | .grow rd q => Sys2Proof.Machine.execGrow rd q s

end Sys2Proof.Machine
end

