-- ==== Sys2Proof/Machine/Engine.lean ====
section
/-! DEFINITION. The command engine's turn and the order of turns (70_reset_and_hazards R283 (b), R286,
60_exceptions R270). -/

namespace Sys2Proof.Machine

/-- The command word the engine takes up: the one accepted into CMD (10_state R51, 20_memory R83). -/
def State.inFlightWord (s : State) : Word := s.cmd

/-- Completion of the in-flight command: decode it and run its rule on the state as it is; a word that is no
command completes with IllegalCommand (70 R283 (b), 30_encoding R98, 60_exceptions R259; log 12). -/
def completeInFlight (s : State) : Host.Outcome State Fault Refusal :=
  match decode s.inFlightWord with
  | .ok i => exec i s
  | .error _ => finish (.error .illegalCommand) s

/-- The command engine's turn: complete the command in flight, if there is one; idle, it changes no state
(70 R283 (b), R286, 60_exceptions R270). -/
def engineTurn (s : State) : Host.Outcome State Fault Refusal :=
  if s.busy then completeInFlight s else .next s

/-- A turn of the host, of the reset input or of the command engine (10_state R30). -/
def turn (t : Turn) (s : State) : Host.Outcome State Fault Refusal :=
  match t with
  | .busRead off size => busRead off size s
  | .busWrite off size v => busWrite off size v s
  | .hardReset => .next s.resetCore
  | .engine => engineTurn s

/-- One turn: the oldest of the schedule, or the engine's when nothing is scheduled (logs 1 and 8). -/
def takeTurn (s : State) : Host.Outcome State Fault Refusal :=
  match s.schedule with
  | [] => engineTurn s
  | t :: rest => turn t { s with schedule := rest }

/-- The state in which the word `w` has been accepted and the engine's turn is next. -/
def State.withInFlight (s : State) (w : Word) : State :=
  { s.accept w with schedule := .engine :: s.schedule }

end Sys2Proof.Machine
end

