-- ==== Sys2Proof/Machine/Step.lean ====
section
/-! DEFINITION. One step of the machine, and how the host places a command word before it. -/

namespace Sys2Proof.Machine

/-- One step: one turn of the host, of the reset input or of the command engine. -/
def step (s : State) : Host.Outcome State Fault Refusal := takeTurn s

/-- `s` with the command word of the opcode table's bits `w` accepted and the engine's turn next, so that
`step` completes exactly that command (log 11). -/
def State.withFetchWord (s : State) (nbits w : Nat) : State := s.withInFlight (tableWord nbits w)

end Sys2Proof.Machine
end

