-- ==== Sys2Proof/Safety.lean ====
section
/-! DEFINITION. What the claims are stated in: the invariant of the machine, what a completed command may have
changed, and runs that stay inside the register window. -/

namespace Sys2Proof.Machine

/-- The parameter registers hold one consistent CodeParameters record (10_state R42 to R49): no session and all 0, or
n = k + r with 1 ≤ k, n + 1 ≤ W, h = clog2(n + 1) and 1 ≤ PKREQ ≤ k; in a formula session 1 ≤ r, s = 0 and
PKREQ = k; in a BCH session an entry of BCH_TABLE, with its s_table as PS holds it (log 14). -/
abbrev Params.wf (cfg : Config.Tables) (p : Params) : Prop :=
  (p.mode = .none → p = Params.noSession) ∧
  (p.mode ≠ .none →
    1 ≤ p.k.toNat ∧ p.n.toNat = p.k.toNat + p.r.toNat ∧ p.n.toNat + 1 ≤ Config.W ∧
      p.h.toNat = clog2 (p.n.toNat + 1) ∧ 1 ≤ p.kreq.toNat ∧ p.kreq.toNat ≤ p.k.toNat) ∧
  (p.mode = .formula → 1 ≤ p.r.toNat ∧ p.s.toNat = 0 ∧ p.kreq = p.k) ∧
  (p.mode = .bch → ∃ e ∈ cfg.bchTable,
    p.n.toNat = e.n ∧ p.k.toNat = e.k ∧ p.r.toNat = e.r ∧ p.s.toNat = e.s % 2 ^ 32)

/-- The invariant of the machine: a conforming configuration (00_scope R10, R11); a consistent session; a command in flight has ERR = 0 and DONE = 0
(70_reset_and_hazards R283); the reserved error codes 6 and 7 are never held (60_exceptions R250,
93_implementation_defined I11). -/
abbrev State.Inv (s : State) : Prop :=
  s.tables.wf ∧ s.params.wf s.tables ∧ (s.busy = true → s.done = false ∧ s.err = .ok) ∧
    s.err ≠ .positionError ∧ s.err ≠ .exceedsCapability

/-- CTRL.IE, STATUS.OVR and CMD, the configuration, and what belongs to the outside, are as before: no command
writes them. -/
abbrev KeepsHostSide (s t : State) : Prop :=
  t.ie = s.ie ∧ t.ovr = s.ovr ∧ t.cmd = s.cmd ∧ t.tables = s.tables ∧ t.schedule = s.schedule ∧ t.lastResponse = s.lastResponse

/-- Every vector register, LEN and DATA, is as before except `rd`. -/
abbrev KeepsVectorsBut (s t : State) (rd : VIdx) : Prop := ∀ i : VIdx, i ≠ rd → t.vreg i = s.vreg i

/-- Completion with success (60_exceptions R255) and RESULT written with `result`. -/
abbrev CompletesOk (t : State) (result : Nat) : Prop :=
  t.err = .ok ∧ t.done = true ∧ t.busy = false ∧ t.result = wordOf result

/-- `V[rd] <- a` has been written: the operand value is `a`, LEN is its length, and DATA is its value, so that every
DATA bit at a position ≥ LEN is 0 (10_state R35). -/
abbrev HoldsVec (t : State) (rd : VIdx) (a : BVec) : Prop :=
  t.vec rd = a ∧ (t.vreg rd).len.val = a.len ∧ (t.vreg rd).data.toNat = a.val

/-- A command has completed with success and written `V[rd]` and RESULT, and nothing else of CORE's state but the
STATUS bits of the completion. -/
abbrev WritesOnlyVec (s t : State) (rd : VIdx) (a : BVec) (result : Nat) : Prop :=
  CompletesOk t result ∧ HoldsVec t rd a ∧ KeepsVectorsBut s t rd ∧ t.params = s.params ∧ t.dstat = s.dstat ∧
    KeepsHostSide s t

/-- A decode command has completed with success and written `V[rd]`, DSTAT and RESULT, and nothing else of CORE's
state but the STATUS bits of the completion (45 R210). -/
abbrev WritesOnlyDecoded (s t : State) (rd : VIdx) (a : BVec) (d : DStat) (result : Nat) : Prop :=
  CompletesOk t result ∧ HoldsVec t rd a ∧ t.dstat = d ∧ KeepsVectorsBut s t rd ∧ t.params = s.params ∧
    KeepsHostSide s t

/-- A resolver command has completed with success and written the parameter registers and RESULT, and nothing else of
CORE's state but the STATUS bits of the completion (42 R150). -/
abbrev WritesOnlyParams (s t : State) (result : Nat) : Prop :=
  CompletesOk t result ∧ t.vregs = s.vregs ∧ t.dstat = s.dstat ∧ KeepsHostSide s t

/-- The numbers in the parameter registers. -/
abbrev HoldsParams (t : State) (k r n s h kreq : Nat) (mode : Mode) : Prop :=
  t.pk = k ∧ t.pr = r ∧ t.pn = n ∧ t.ps = s ∧ t.ph = h ∧ t.pkreq = kreq ∧ t.params.mode = mode

/-- The state after a command fails with the code `c`: STATUS only (60_exceptions R254). -/
abbrev failed (s : State) (c : ErrCode) : State := { s with err := c, done := true, busy := false }

/-- The session has the Hamming shape, HamOK (46 R230). -/
abbrev HammingShape (p : Params) : Prop :=
  p.mode = .formula ∧ p.n.toNat = p.k.toNat + p.r.toNat ∧ 1 ≤ p.r.toNat ∧ flog2 p.n.toNat + 1 = p.r.toNat

/-- `n` steps of the machine, stopping at the first fault or refusal. -/
def run (n : Nat) (s : State) : Host.Outcome State Fault Refusal := Host.Core.run Sys2Proof.core n s

/-- The engine moves next: its turn is the oldest, or nothing is scheduled (logs 1 and 8). -/
abbrev EngineNext (s : State) : Prop := s.schedule = [] ∨ s.schedule.head? = some .engine

/-- A byte offset of LEN, DLO or DHI of some vector register (20_memory R71). -/
abbrev vectorField (off : Nat) : Prop := 0x100 ≤ off ∧ off < 0x180 ∧ off % 4 = 0 ∧ off % 16 ≠ 12

/-- A host access inside the window that does not reset CORE. -/
abbrev harmless : Turn → Prop
  | .busRead off _ => off < Config.windowBytes
  | .busWrite off size v =>
    off < Config.windowBytes ∧ ¬ (accepted off size = true ∧ regAt off = .ctrl ∧ v.getLsbD 1 = true)
  | .hardReset => False
  | .engine => False

/-- Every host access still to come is inside the window: no step of the run can fault (log 4). -/
abbrev safeTurn : Turn → Prop
  | .busRead off _ => off < Config.windowBytes
  | .busWrite off _ _ => off < Config.windowBytes
  | .hardReset => True
  | .engine => True

/-- 43 R172: a candidate of degree r for k information elements. -/
abbrev synCycCandidate (wmin k r v : Nat) : Prop :=
  2 ^ r ≤ v ∧ v < 2 ^ (r + 1) ∧ wmin ≤ popcount v ∧ clmod (2 ^ (k + r) + 1) v = 0

/-- 43 R172: the degrees the search of SYN.CYC looks at. -/
abbrev synCycDegree (s : State) (r : Nat) : Prop :=
  s.pr ≤ r ∧ r ≤ s.tables.genMaxDegree ∧ s.pk + r + 1 ≤ 64

/-- 45 R211: the syndrome of the word rotated left c times. -/
abbrev rotatedSyndrome (w g : BVec) (c : Nat) : BVec := (w.rotlTimes c).modDivide g

/-- 42 R153: the entry satisfies a request for k and s. -/
abbrev bchMatches (k s : Nat) (e : Config.BchEntry) : Prop := k ≤ e.k ∧ s ≤ e.s

/-- 43 R174: the product of the polynomials `ps`, in their order. -/
abbrev productVal (ps : List BVec) : Nat := ps.foldl (fun g q => clmul g q.val) 1

/-- 43 R174: the length of the product of the polynomials `ps`, untrimmed, before SYN.BCH's check against W. -/
abbrev productLen (ps : List BVec) : Nat := 1 + (ps.map fun q => q.len - 1).sum

end Sys2Proof.Machine
end

