-- ==== Sys2Proof/Certificates/Slice0/Obligations.lean ====
section
/-! DEFINITION. The statements about the machine. Each docstring names the rule of spec/ it formalises. -/

open Sys2Proof Sys2Proof.Machine

/-! ### The gf2_polynomial_arith unit -/

/-- 41 R121: XOR. The result is element by element the XOR of the operands left-zero-padded to the longer length. -/
def Obligations.XorAddsPaddedOperands : Prop :=
  ∀ (s : State) (rd ra rb : VIdx), ∃ t, exec (.xor rd ra rb) s = .next t ∧
    WritesOnlyVec s t rd ⟨max (s.vec ra).len (s.vec rb).len, (s.vec ra).val ^^^ (s.vec rb).val⟩
      (max (s.vec ra).len (s.vec rb).len) ∧
    ∀ i < max (s.vec ra).len (s.vec rb).len,
      (t.vec rd).elem i =
        (((s.vec ra).pad (max (s.vec ra).len (s.vec rb).len)).elem i ^^
          ((s.vec rb).pad (max (s.vec ra).len (s.vec rb).len)).elem i)

/-- 41 R122: MUL, its two errors in order and its product. -/
def Obligations.MulWritesCarrylessProduct : Prop :=
  ∀ (s : State) (rd ra rb : VIdx),
    ((s.vec ra).len = 0 ∨ (s.vec rb).len = 0 → exec (.mul rd ra rb) s = .next (failed s .invalidInput)) ∧
    ((s.vec ra).len ≠ 0 → (s.vec rb).len ≠ 0 → 64 < (s.vec ra).len + (s.vec rb).len - 1 →
      exec (.mul rd ra rb) s = .next (failed s .capacityExceeded)) ∧
    ((s.vec ra).len ≠ 0 → (s.vec rb).len ≠ 0 → (s.vec ra).len + (s.vec rb).len - 1 ≤ 64 →
      ∃ t, exec (.mul rd ra rb) s = .next t ∧
        WritesOnlyVec s t rd ⟨(s.vec ra).len + (s.vec rb).len - 1, clmul (s.vec ra).val (s.vec rb).val⟩
          ((s.vec ra).len + (s.vec rb).len - 1))

/-- 00_scope R20: `clmul` is the product of two polynomials over GF(2): coefficient d is the parity of the number of
pairs of coefficients whose degrees add up to d. -/
def Obligations.ClmulIsPolynomialProduct : Prop :=
  ∀ a b d : Nat, (clmul a b).testBit d =
    decide (((List.range (d + 1)).filter fun j => a.testBit (d - j) && b.testBit j).length % 2 = 1)

/-- 41 R128: the product is commutative on values and distributes over XOR. -/
def Obligations.ClmulCommutesAndDistributes : Prop :=
  ∀ a b c : Nat, clmul a b = clmul b a ∧ clmul a (b ^^^ c) = clmul a b ^^^ clmul a c

/-- 41 R123: MOD. A divisor whose value is 0 fails; otherwise V[RD] is the remainder, of length len(divisor) - 1: the
dividend is a multiple of the divisor XOR it, and its degree is below the divisor's (00_scope R20). -/
def Obligations.ModWritesRemainder : Prop :=
  ∀ (s : State) (rd ra rb : VIdx),
    ((s.vec rb).val = 0 → exec (.mod rd ra rb) s = .next (failed s .divisionByZero)) ∧
    ((s.vec rb).val ≠ 0 → ∃ t c q, exec (.mod rd ra rb) s = .next t ∧
      WritesOnlyVec s t rd ⟨(s.vec rb).len - 1, c⟩ ((s.vec rb).len - 1) ∧
      (s.vec ra).val = clmul q (s.vec rb).val ^^^ c ∧ (c = 0 ∨ c.log2 < (s.vec rb).val.log2))

/-- 00_scope R20: the remainder of `clmod` is the only one of degree below the divisor's. -/
def Obligations.RemainderIsUnique : Prop :=
  ∀ a b q c : Nat, b ≠ 0 → a = clmul q b ^^^ c → (c = 0 ∨ c.log2 < b.log2) → clmod a b = c

/-- 41 R124: WGT counts the 1 elements of its operand into RESULT and writes no vector register. -/
def Obligations.WgtCountsOnes : Prop :=
  ∀ (s : State) (ra : VIdx), ∃ t, exec (.wgt ra) s = .next t ∧
    CompletesOk t ((List.range (s.vec ra).len).filter fun i => (s.vec ra).elem i).length ∧
    t.vregs = s.vregs ∧ t.params = s.params ∧ t.dstat = s.dstat ∧ KeepsHostSide s t

/-- 41 R125: ROTL. Element i of the result is element (i + 1) mod L of the operand. -/
def Obligations.RotlMovesElementsTowardZero : Prop :=
  ∀ (s : State) (rd ra : VIdx), ∃ t v, exec (.rotl rd ra) s = .next t ∧
    WritesOnlyVec s t rd ⟨(s.vec ra).len, v⟩ (s.vec ra).len ∧
    ∀ i < (s.vec ra).len, (t.vec rd).elem i = (s.vec ra).elem ((i + 1) % (s.vec ra).len)

/-- 41 R126: ROTR. Element i of the result is element (i - 1) mod L of the operand. -/
def Obligations.RotrMovesElementsAwayFromZero : Prop :=
  ∀ (s : State) (rd ra : VIdx), ∃ t v, exec (.rotr rd ra) s = .next t ∧
    WritesOnlyVec s t rd ⟨(s.vec ra).len, v⟩ (s.vec ra).len ∧
    ∀ i < (s.vec ra).len, (t.vec rd).elem i = (s.vec ra).elem ((i + (s.vec ra).len - 1) % (s.vec ra).len)

/-- 41 R127: SHLX. r zero elements are appended, or CapacityExceeded is raised. -/
def Obligations.ShlxAppendsZeroElements : Prop :=
  ∀ (s : State) (rd ra : VIdx) (r : Nat),
    (64 < (s.vec ra).len + r → exec (.shlx rd ra r) s = .next (failed s .capacityExceeded)) ∧
    ((s.vec ra).len + r ≤ 64 → ∃ t, exec (.shlx rd ra r) s = .next t ∧
      WritesOnlyVec s t rd ⟨(s.vec ra).len + r, (s.vec ra).val * 2 ^ r⟩ ((s.vec ra).len + r) ∧
      (∀ i < (s.vec ra).len, (t.vec rd).elem i = (s.vec ra).elem i) ∧
      ∀ i, (s.vec ra).len ≤ i → i < (s.vec ra).len + r → (t.vec rd).elem i = false)

/-- 41 R128: rotation closure, and ROTR undoes ROTL (41 R126). -/
def Obligations.RotationsCloseAndUndo : Prop :=
  ∀ a : BVec, a.Fits →
    a.rotlTimes a.len = a ∧ a.rotrTimes a.len = a ∧ a.rotl.rotr = a ∧ a.rotr.rotl = a

/-- 41 R128: c left rotations multiply the polynomial by x^c modulo x^L + 1. -/
def Obligations.RotationIsMultiplicationByPowerOfX : Prop :=
  ∀ (a : BVec) (c : Nat), a.Fits → 1 ≤ a.len →
    (a.rotlTimes c).val = clmod (a.val <<< c) (2 ^ a.len + 1)

/-! ### The bch_parameter_resolver unit -/

/-- 42 R151: RSLV.H, its two errors in order and the session it starts. -/
def Obligations.RslvHStartsFormulaSession : Prop :=
  ∀ (s : State) (k r : Nat), r = clog2 (k + 1 + clog2 (k + 1)) →
    (k = 0 → exec (.rslvH k) s = .next (failed s .invalidInput)) ∧
    (k ≠ 0 → 64 < k + r + 1 → exec (.rslvH k) s = .next (failed s .noSuitableParameters)) ∧
    (k ≠ 0 → k + r + 1 ≤ 64 → ∃ t, exec (.rslvH k) s = .next t ∧ WritesOnlyParams s t (k + r) ∧
      HoldsParams t k r (k + r) 0 (clog2 (k + r + 1)) k .formula)

/-- 42 R152, 46 R230: for every k from 1 to 57, RSLV.H starts a session whose r is the least one that meets the Hamming
bound and which has the Hamming shape, with exactly r powers of two and k other numbers in 1..n. -/
def Obligations.RslvHMeetsHammingBound : Prop :=
  ∀ (s : State) (k : Nat), 1 ≤ k → k ≤ 57 → ∃ t, exec (.rslvH k) s = .next t ∧ t.err = .ok ∧ t.pk = k ∧
    k + t.pr + 1 ≤ 2 ^ t.pr ∧ (∀ r, k + r + 1 ≤ 2 ^ r → t.pr ≤ r) ∧ HammingShape t.params ∧
    ((List.range' 1 t.pn).filter fun j => ∃ e < t.pr, j = 2 ^ e).length = t.pr ∧
    ((List.range' 1 t.pn).filter fun j => ¬ ∃ e < t.pr, j = 2 ^ e).length = k ∧ t.pn ≤ 2 ^ t.pr - 1

/-- 42 R153, 00_scope R10, for every BCH_TABLE: RSLV.BCH takes the first entry, in table order, with k_table ≥ k and
s_table ≥ s; in a well-formed table that is the smallest one by (n, r). The entry must fit its registers, as every
well-formed one does (PS holds s_table modulo 2^32, log 14). -/
def Obligations.RslvBchTakesSmallestEntry : Prop :=
  ∀ (s : State) (k c : Nat),
    (k = 0 → exec (.rslvBch k c) s = .next (failed s .invalidInput)) ∧
    (k ≠ 0 → (∀ e ∈ s.tables.bchTable, ¬ bchMatches k c e) →
      exec (.rslvBch k c) s = .next (failed s .noSuitableParameters)) ∧
    ∀ (before after : List Config.BchEntry) (e : Config.BchEntry), k ≠ 0 →
      s.tables.bchTable = before ++ e :: after → (∀ x ∈ before, ¬ bchMatches k c x) → bchMatches k c e →
      (e.wf → ∃ t, exec (.rslvBch k c) s = .next t ∧ WritesOnlyParams s t e.n ∧
        HoldsParams t e.k e.r e.n (e.s % 2 ^ 32) (clog2 (e.n + 1)) k .bch) ∧
      (s.tables.wf → ∀ x ∈ s.tables.bchTable, bchMatches k c x → x = e ∨ e.before x)

/-- 42 R156: CLRP ends the session. -/
def Obligations.ClrpEndsSession : Prop :=
  ∀ s : State, ∃ t, exec .clrp s = .next t ∧ WritesOnlyParams s t 0 ∧ HoldsParams t 0 0 0 0 0 0 .none

/-- 10_state R50, 42 R155: in a step the parameter registers change only by RSLV.H, RSLV.BCH, CLRP or SYN.CYC
completing, or by a reset. No step changes the configuration (00_scope R12). -/
def Obligations.ParametersChangeOnlyByTheirCommands : Prop :=
  ∀ s t : State, step s = .next t → t.tables = s.tables ∧ (t.params ≠ s.params →
    (EngineNext s ∧ s.busy = true ∧ t.err = .ok ∧
      ((∃ k, decode s.cmd = .ok (.rslvH k)) ∨ (∃ k c, decode s.cmd = .ok (.rslvBch k c)) ∨
        decode s.cmd = .ok .clrp ∨ ∃ rd m, decode s.cmd = .ok (.synCyc rd m))) ∨
    (t.params = Params.noSession ∧
      (s.schedule.head? = some .hardReset ∨ ∃ v, s.schedule.head? = some (.busWrite 0x004 32 v) ∧ v.getLsbD 1 = true)))

/-! ### The generator_polynomial_synthesizer unit -/

/-- 43 R172: SYN.CYC selects the accepted candidate of least degree and, within it, of least value, and widens the
session to it; it fails when there is none. The bound GEN_MAX_DEGREE is that of the state's configuration. -/
def Obligations.SynCycSelectsFirstGenerator : Prop :=
  ∀ (s : State) (rd : VIdx) (wmin : Nat),
    (s.params.mode ≠ .formula → exec (.synCyc rd wmin) s = .next (failed s .sessionError)) ∧
    (s.params.mode = .formula → (∀ r v, synCycDegree s r → ¬ synCycCandidate wmin s.pk r v) →
      exec (.synCyc rd wmin) s = .next (failed s .noGeneratorFound)) ∧
    ∀ r v, s.params.mode = .formula → synCycDegree s r → synCycCandidate wmin s.pk r v →
      (∀ r' v', synCycDegree s r' → synCycCandidate wmin s.pk r' v' → r < r' ∨ r = r' ∧ v ≤ v') →
      ∃ t, exec (.synCyc rd wmin) s = .next t ∧ CompletesOk t r ∧ HoldsVec t rd ⟨r + 1, v⟩ ∧
        KeepsVectorsBut s t rd ∧ t.dstat = s.dstat ∧ KeepsHostSide s t ∧
        HoldsParams t s.pk r (s.pk + r) s.ps (clog2 (s.pk + r + 1)) s.pkreq .formula

/-- 43 R174, R176, for every configuration: outside a BCH session SYN.BCH raises SessionError. When every index has a
MINPOLY entry, it raises CapacityExceeded if the product of P_1, P_3, …, P_{2s-1} has a length above W, NoGeneratorFound if
the product has not degree PR or does not divide x^PN + 1, and else it completes with the product. With the default tables
(logs 5 and 6) it completes in every BCH session. An undefined index is Obligations.MissingMinimalPolynomialIsFatal. -/
def Obligations.SynBchWritesGenerator : Prop :=
  ∀ (s : State) (rd : VIdx),
    (s.params.mode ≠ .bch → exec (.synBch rd) s = .next (failed s .sessionError)) ∧
    (∀ ps : List BVec, s.params.mode = .bch → (∀ e ∈ s.tables.minPoly, e.wf) →
      ((List.range s.ps).map fun j => s.tables.minPolyAt s.ph (2 * j + 1)) = ps.map some →
      (Config.W < productLen ps → exec (.synBch rd) s = .next (failed s .capacityExceeded)) ∧
      (productLen ps ≤ Config.W → productLen ps ≠ s.pr + 1 ∨ clmod (2 ^ s.pn + 1) (productVal ps) ≠ 0 →
        exec (.synBch rd) s = .next (failed s .noGeneratorFound)) ∧
      (productLen ps ≤ Config.W → productLen ps = s.pr + 1 → clmod (2 ^ s.pn + 1) (productVal ps) = 0 →
        ∃ t, exec (.synBch rd) s = .next t ∧ WritesOnlyVec s t rd ⟨s.pr + 1, productVal ps⟩ s.pr)) ∧
    (s.Inv → s.tables = Config.defaultTables → s.params.mode = .bch → ∃ t, ∃ ps : List BVec,
      exec (.synBch rd) s = .next t ∧
      ((List.range s.ps).map fun j => s.tables.minPolyAt s.ph (2 * j + 1)) = ps.map some ∧
      WritesOnlyVec s t rd ⟨s.pr + 1, productVal ps⟩ s.pr ∧ clmod (2 ^ s.pn + 1) (t.vec rd).val = 0)

/-- 43 R174, for every configuration: an undefined MINPOLY entry among the indices 1, 3, …, 2s - 1 is never skipped:
SYN.BCH fails. When 2j + 1 is the first undefined index and MINPOLY is well-formed (00_scope R11), the error is
MissingMinimalPolynomial if the product of P_1, P_3, …, P_{2j-1} has a length of at most W, and CapacityExceeded, raised at
an earlier index, if it has not. At index 1 the table need not be well-formed. -/
def Obligations.MissingMinimalPolynomialIsFatal : Prop :=
  ∀ (s : State) (rd : VIdx) (j : Nat), s.params.mode = .bch → j < s.ps →
    s.tables.minPolyAt s.ph (2 * j + 1) = none →
    (∃ c, c ≠ .ok ∧ exec (.synBch rd) s = .next (failed s c)) ∧
      (j = 0 → exec (.synBch rd) s = .next (failed s .missingMinimalPolynomial)) ∧
      ∀ ps : List BVec, (∀ e ∈ s.tables.minPoly, e.wf) →
        ((List.range j).map fun i => s.tables.minPolyAt s.ph (2 * i + 1)) = ps.map some →
        (productLen ps ≤ Config.W → exec (.synBch rd) s = .next (failed s .missingMinimalPolynomial)) ∧
          (Config.W < productLen ps → exec (.synBch rd) s = .next (failed s .capacityExceeded))

/-! ### The systematic_encoder unit -/

/-- 44 R191, R194 (a): ENC.POLY, its errors in order and its systematic codeword. -/
def Obligations.EncPolyWritesSystematicWord : Prop :=
  ∀ (s : State) (rd ra rb : VIdx),
    (s.params.mode = .none → exec (.encPoly rd ra rb) s = .next (failed s .sessionError)) ∧
    (s.params.mode ≠ .none → (s.vec rb).len ≠ s.pr + 1 →
      exec (.encPoly rd ra rb) s = .next (failed s .invalidInput)) ∧
    (s.params.mode ≠ .none → (s.vec rb).len = s.pr + 1 → (s.vec ra).len ≠ s.pkreq → (s.vec ra).len ≠ s.pk →
      exec (.encPoly rd ra rb) s = .next (failed s .invalidInput)) ∧
    (s.params.mode ≠ .none → (s.vec rb).len = s.pr + 1 → ((s.vec ra).len = s.pkreq ∨ (s.vec ra).len = s.pk) →
      (s.vec rb).val = 0 → exec (.encPoly rd ra rb) s = .next (failed s .divisionByZero)) ∧
    (s.Inv → s.params.mode ≠ .none → (s.vec rb).len = s.pr + 1 →
      ((s.vec ra).len = s.pkreq ∨ (s.vec ra).len = s.pk) → (s.vec rb).val ≠ 0 →
      ∃ t v, exec (.encPoly rd ra rb) s = .next t ∧ WritesOnlyVec s t rd ⟨s.pn, v⟩ s.pn ∧
        v >>> s.pr = (s.vec ra).val ∧ v % 2 ^ s.pr = clmod ((s.vec ra).val <<< s.pr) (s.vec rb).val)

/-- 44 R194 (b): when g has leading element 1, the word ENC.POLY writes is a multiple of g. -/
def Obligations.EncPolyWordIsMultipleOfGenerator : Prop :=
  ∀ (s : State) (rd ra rb : VIdx), s.Inv → s.params.mode ≠ .none → (s.vec rb).len = s.pr + 1 →
    ((s.vec ra).len = s.pkreq ∨ (s.vec ra).len = s.pk) → (s.vec rb).elem 0 = true →
    ∃ t, exec (.encPoly rd ra rb) s = .next t ∧ t.err = .ok ∧ clmod (t.vec rd).val (s.vec rb).val = 0

/-- 44 R192: ENC.MAT, its errors and its codeword α·G: the first k elements are α, the last r the XOR of the columns of H
that α selects. -/
def Obligations.EncMatWritesCodeword : Prop :=
  ∀ (s : State) (rd ra : VIdx),
    (¬ HammingShape s.params → exec (.encMat rd ra) s = .next (failed s .sessionError)) ∧
    (HammingShape s.params → (s.vec ra).len ≠ s.pk → exec (.encMat rd ra) s = .next (failed s .invalidInput)) ∧
    (s.Inv → HammingShape s.params → (s.vec ra).len = s.pk →
      ∃ t v, exec (.encMat rd ra) s = .next t ∧ WritesOnlyVec s t rd ⟨s.pn, v⟩ s.pn ∧
        v >>> s.pr = (s.vec ra).val ∧ v % 2 ^ s.pr = xorColumns s.pk s.pr (s.vec ra) (List.range' 1 s.pk))

/-- 44 R193: INFO, its errors and the PKREQ information elements PK - PKREQ to PK - 1 that it returns. -/
def Obligations.InfoReturnsInformationElements : Prop :=
  ∀ (s : State) (rd ra : VIdx),
    (s.params.mode = .none → exec (.info rd ra) s = .next (failed s .sessionError)) ∧
    (s.params.mode ≠ .none → (s.vec ra).len ≠ s.pn → exec (.info rd ra) s = .next (failed s .invalidInput)) ∧
    (s.Inv → s.params.mode ≠ .none → (s.vec ra).len = s.pn →
      ∃ t, exec (.info rd ra) s = .next t ∧
        WritesOnlyVec s t rd ⟨s.pkreq, (s.vec ra).val >>> s.pr % 2 ^ s.pkreq⟩ s.pkreq ∧
        ∀ j < s.pkreq, (t.vec rd).elem j = (s.vec ra).elem (s.pk - s.pkreq + j))

/-- 44 R194 (e): both encoders are linear in the information word: the polynomial one on words of length PKREQ or PK
(44 R191) in any combination, the matrix one on words of length PK (44 R192). -/
def Obligations.EncodersAreLinear : Prop :=
  ∀ (cfg : Config.Tables) (p : Params) (a b : BVec), p.wf cfg → p.mode ≠ .none → a.Fits → b.Fits →
    (∀ g : BVec, (a.len = p.kreq.toNat ∨ a.len = p.k.toNat) → (b.len = p.kreq.toNat ∨ b.len = p.k.toNat) →
      g.val ≠ 0 → g.len = p.r.toNat + 1 → g.Fits →
      polyCodeword p.k.toNat p.r.toNat (a.xorAdd b) g =
        (polyCodeword p.k.toNat p.r.toNat a g).xorAdd (polyCodeword p.k.toNat p.r.toNat b g)) ∧
    (HammingShape p → a.len = p.k.toNat → b.len = p.k.toNat →
      matCodeword p.k.toNat p.r.toNat p.n.toNat (a.xorAdd b) =
        (matCodeword p.k.toNat p.r.toNat p.n.toNat a).xorAdd (matCodeword p.k.toNat p.r.toNat p.n.toNat b))

/-! ### The syndrome_decoder unit -/

/-- 45 R211: DEC.CYC, its errors in order and its three outcomes. -/
def Obligations.DecCycSearchesRotations : Prop :=
  ∀ (s : State) (rd ra rb : VIdx) (cap : Nat),
    ((s.vec ra).len < (s.vec rb).len - 1 → exec (.decCyc rd ra rb cap) s = .next (failed s .invalidInput)) ∧
    ((s.vec rb).len - 1 ≤ (s.vec ra).len → (s.vec rb).val = 0 →
      exec (.decCyc rd ra rb cap) s = .next (failed s .divisionByZero)) ∧
    ((s.vec rb).len - 1 ≤ (s.vec ra).len → (s.vec rb).val ≠ 0 → clmod (s.vec ra).val (s.vec rb).val = 0 →
      ∃ t, exec (.decCyc rd ra rb cap) s = .next t ∧ WritesOnlyDecoded s t rd (s.vec ra) .noError 0) ∧
    (∀ c, (s.vec rb).len - 1 ≤ (s.vec ra).len → (s.vec rb).val ≠ 0 → clmod (s.vec ra).val (s.vec rb).val ≠ 0 →
      c < (s.vec ra).len → (rotatedSyndrome (s.vec ra) (s.vec rb) c).weight ≤ cap →
      (∀ c' < c, cap < (rotatedSyndrome (s.vec ra) (s.vec rb) c').weight) →
      ∃ t, exec (.decCyc rd ra rb cap) s = .next t ∧
        WritesOnlyDecoded s t rd
          ((((s.vec ra).rotlTimes c).xorAdd (rotatedSyndrome (s.vec ra) (s.vec rb) c)).rotrTimes c) .corrected c) ∧
    ((s.vec rb).len - 1 ≤ (s.vec ra).len → (s.vec rb).val ≠ 0 → clmod (s.vec ra).val (s.vec rb).val ≠ 0 →
      (∀ c < (s.vec ra).len, cap < (rotatedSyndrome (s.vec ra) (s.vec rb) c).weight) →
      ∃ t, exec (.decCyc rd ra rb cap) s = .next t ∧
        WritesOnlyDecoded s t rd (s.vec ra) .uncorrectable (s.vec ra).len)

/-- 45 R212: DEC.MAT, its errors in order and its three outcomes. -/
def Obligations.DecMatMatchesColumn : Prop :=
  ∀ (s : State) (rd ra : VIdx),
    (¬ HammingShape s.params → exec (.decMat rd ra) s = .next (failed s .sessionError)) ∧
    (HammingShape s.params → (s.vec ra).len ≠ s.pn → exec (.decMat rd ra) s = .next (failed s .invalidInput)) ∧
    (HammingShape s.params → (s.vec ra).len = s.pn → matSyndrome s.pk s.pr s.pn (s.vec ra) = 0 →
      ∃ t, exec (.decMat rd ra) s = .next t ∧ WritesOnlyDecoded s t rd (s.vec ra) .noError 0) ∧
    (∀ p, s.Inv → HammingShape s.params → (s.vec ra).len = s.pn → matSyndrome s.pk s.pr s.pn (s.vec ra) ≠ 0 →
      1 ≤ p → p ≤ s.pn → colval s.pk s.pr p = matSyndrome s.pk s.pr s.pn (s.vec ra) →
      ∃ t v, exec (.decMat rd ra) s = .next t ∧ WritesOnlyDecoded s t rd ⟨s.pn, v⟩ .corrected p ∧
        ∀ j < s.pn, (t.vec rd).elem j = ((s.vec ra).elem j ^^ decide (j = p - 1))) ∧
    (HammingShape s.params → (s.vec ra).len = s.pn → matSyndrome s.pk s.pr s.pn (s.vec ra) ≠ 0 →
      (∀ p, 1 ≤ p → p ≤ s.pn → colval s.pk s.pr p ≠ matSyndrome s.pk s.pr s.pn (s.vec ra)) →
      ∃ t, exec (.decMat rd ra) s = .next t ∧ WritesOnlyDecoded s t rd (s.vec ra) .undeterminedError 0)

/-- 45 R213 (b): DEC.MAT corrects every single error at every position: from a word that differs from a word of syndrome
0 in the element at position p it gives that word back, and RESULT is p. -/
def Obligations.DecMatCorrectsEverySingleError : Prop :=
  ∀ (s : State) (rd ra : VIdx) (c : BVec) (p : Nat), s.Inv → HammingShape s.params → c.Fits → c.len = s.pn →
    matSyndrome s.pk s.pr s.pn c = 0 → 1 ≤ p → p ≤ s.pn → s.vec ra = c.flip (p - 1) →
    ∃ t, exec (.decMat rd ra) s = .next t ∧ WritesOnlyDecoded s t rd c .corrected p

/-- 45 R214, 44 R194 (d), 45 R213 (b): INFO of DEC.MAT of ENC.MAT of α is α, with no error and with any one element of
the codeword inverted. -/
def Obligations.HammingRoundTripWithOneError : Prop :=
  ∀ (s : State) (a b : VIdx), s.Inv → HammingShape s.params → (s.vec a).len = s.pk →
    ∃ t₁, exec (.encMat b a) s = .next t₁ ∧ t₁.err = .ok ∧
      (∃ t₂ t₃, exec (.decMat b b) t₁ = .next t₂ ∧ t₂.dstat = .noError ∧ t₂.vec b = t₁.vec b ∧
        exec (.info b b) t₂ = .next t₃ ∧ t₃.vec b = s.vec a) ∧
      ∀ p, 1 ≤ p → p ≤ s.pn →
        ∃ t₂ t₃, exec (.decMat b b) (t₁.setVec b ((t₁.vec b).flip (p - 1))) = .next t₂ ∧ t₂.dstat = .corrected ∧
          t₂.vec b = t₁.vec b ∧ exec (.info b b) t₂ = .next t₃ ∧ t₃.vec b = s.vec a

/-- 44 R194 (d), 45 R213 (a), R214: for a generator with leading element 1, INFO of DEC.CYC of ENC.POLY of a PKREQ-element
α is α, and the decoder reports NoError, whatever t it is given. -/
def Obligations.CyclicRoundTripWithoutErrors : Prop :=
  ∀ (s : State) (a b g : VIdx) (cap : Nat), s.Inv → s.params.mode ≠ .none → (s.vec g).len = s.pr + 1 →
    (s.vec g).elem 0 = true → (s.vec a).len = s.pkreq → b ≠ g →
    ∃ t₁ t₂ t₃, exec (.encPoly b a g) s = .next t₁ ∧ exec (.decCyc b b g cap) t₁ = .next t₂ ∧
      t₂.dstat = .noError ∧ t₂.vec b = t₁.vec b ∧ exec (.info b b) t₂ = .next t₃ ∧ t₃.err = .ok ∧
      t₃.vec b = s.vec a

/-- 10_state R39: the decode status codes, NONE at reset, and that only DEC.CYC and DEC.MAT completing with ERR = 0 write DSTAT. -/
def Obligations.OnlyDecodersWriteDstat : Prop :=
  (DStat.code .none = 0 ∧ DStat.code .noError = 1 ∧ DStat.code .corrected = 2 ∧ DStat.code .uncorrectable = 3 ∧
    DStat.code .undeterminedError = 4 ∧ State.reset.dstat = .none) ∧
  ∀ (i : Instr) (s t : State), exec i s = .next t →
    (t.dstat ≠ s.dstat → t.err = .ok ∧ ((∃ rd ra rb c, i = .decCyc rd ra rb c) ∨ ∃ rd ra, i = .decMat rd ra)) ∧
    ((∃ rd ra rb c, i = .decCyc rd ra rb c) → t.err = .ok →
      t.dstat = .noError ∨ t.dstat = .corrected ∨ t.dstat = .uncorrectable) ∧
    ((∃ rd ra, i = .decMat rd ra) → t.err = .ok →
      t.dstat = .noError ∨ t.dstat = .corrected ∨ t.dstat = .undeterminedError)

/-! ### The hamming_ecc_engine unit -/

/-- 46 R231, R233 (a): the columns of H are exactly the numbers 1 to n, each once, and in R231's order: the first k
ascend and are no powers of two, the last r are 2^(r-1), …, 2, 1. -/
def Obligations.ColumnsAreOneToNOnce : Prop :=
  ∀ (cfg : Config.Tables) (p : Params), p.wf cfg → HammingShape p →
    (∀ q, 1 ≤ q → q ≤ p.n.toNat → 1 ≤ colval p.k.toNat p.r.toNat q ∧ colval p.k.toNat p.r.toNat q ≤ p.n.toNat) ∧
    (∀ q q', 1 ≤ q → q ≤ p.n.toNat → 1 ≤ q' → q' ≤ p.n.toNat →
      colval p.k.toNat p.r.toNat q = colval p.k.toNat p.r.toNat q' → q = q') ∧
    (∀ v, 1 ≤ v → v ≤ p.n.toNat → ∃ q, 1 ≤ q ∧ q ≤ p.n.toNat ∧ colval p.k.toNat p.r.toNat q = v) ∧
    (∀ q q', 1 ≤ q → q < q' → q' ≤ p.k.toNat →
      colval p.k.toNat p.r.toNat q < colval p.k.toNat p.r.toNat q') ∧
    (∀ q e, 1 ≤ q → q ≤ p.k.toNat → colval p.k.toNat p.r.toNat q ≠ 2 ^ e) ∧
    ∀ i, 1 ≤ i → i ≤ p.r.toNat → colval p.k.toNat p.r.toNat (p.k.toNat + i) = 2 ^ (p.r.toNat - i)

/-- 46 R233 (b), 44 R194 (c): G·Hᵗ = 0, and every codeword α·G of ENC.MAT is orthogonal to H. -/
def Obligations.CodewordsAreOrthogonalToH : Prop :=
  ∀ (cfg : Config.Tables) (p : Params), p.wf cfg → HammingShape p →
    (∀ q, 1 ≤ q → q ≤ p.k.toNat →
      matSyndrome p.k.toNat p.r.toNat p.n.toNat (gRow p.k.toNat p.r.toNat p.n.toNat q) = 0) ∧
    ∀ a : BVec, a.Fits → a.len = p.k.toNat →
      matSyndrome p.k.toNat p.r.toNat p.n.toNat (matCodeword p.k.toNat p.r.toNat p.n.toNat a) = 0

/-- 46 R234: SYNM, its errors and S = w·Hᵗ: element i - 1 is the parity of row i of H with w. -/
def Obligations.SynmWritesMatrixSyndrome : Prop :=
  ∀ (s : State) (rd ra : VIdx),
    (¬ HammingShape s.params → exec (.synm rd ra) s = .next (failed s .sessionError)) ∧
    (HammingShape s.params → (s.vec ra).len ≠ s.pn → exec (.synm rd ra) s = .next (failed s .invalidInput)) ∧
    (s.Inv → HammingShape s.params → (s.vec ra).len = s.pn →
      ∃ t, exec (.synm rd ra) s = .next t ∧
        WritesOnlyVec s t rd ⟨s.pr, matSyndrome s.pk s.pr s.pn (s.vec ra)⟩ s.pr ∧
        ∀ i, 1 ≤ i → i ≤ s.pr → (t.vec rd).elem (i - 1) =
          decide (((List.range' 1 s.pn).filter fun p =>
            hEntry s.pk s.pr i p && (s.vec ra).elem (p - 1)).length % 2 = 1))

/-- 46 R235: HROW, its errors and row i of H. -/
def Obligations.HrowReadsRowOfH : Prop :=
  ∀ (s : State) (rd : VIdx) (i : Nat),
    (¬ HammingShape s.params → exec (.hrow rd i) s = .next (failed s .sessionError)) ∧
    (HammingShape s.params → i < 1 ∨ s.pr < i → exec (.hrow rd i) s = .next (failed s .invalidInput)) ∧
    (s.Inv → HammingShape s.params → 1 ≤ i → i ≤ s.pr →
      ∃ t v, exec (.hrow rd i) s = .next t ∧ WritesOnlyVec s t rd ⟨s.pn, v⟩ s.pn ∧
        ∀ p, 1 ≤ p → p ≤ s.pn → (t.vec rd).elem (p - 1) = hEntry s.pk s.pr i p)

/-- 46 R236: HCOL, its errors and column p of H. -/
def Obligations.HcolReadsColumnOfH : Prop :=
  ∀ (s : State) (rd : VIdx) (p : Nat),
    (¬ HammingShape s.params → exec (.hcol rd p) s = .next (failed s .sessionError)) ∧
    (HammingShape s.params → p < 1 ∨ s.pn < p → exec (.hcol rd p) s = .next (failed s .invalidInput)) ∧
    (s.Inv → HammingShape s.params → 1 ≤ p → p ≤ s.pn →
      ∃ t, exec (.hcol rd p) s = .next t ∧ WritesOnlyVec s t rd ⟨s.pr, colval s.pk s.pr p⟩ s.pr ∧
        ∀ i, 1 ≤ i → i ≤ s.pr → (t.vec rd).elem (i - 1) = hEntry s.pk s.pr i p)

/-- 46 R237, R232: GROW, its errors and row q of G = [E_k | Aᵗ]. -/
def Obligations.GrowReadsRowOfG : Prop :=
  ∀ (s : State) (rd : VIdx) (q : Nat),
    (¬ HammingShape s.params → exec (.grow rd q) s = .next (failed s .sessionError)) ∧
    (HammingShape s.params → q < 1 ∨ s.pk < q → exec (.grow rd q) s = .next (failed s .invalidInput)) ∧
    (s.Inv → HammingShape s.params → 1 ≤ q → q ≤ s.pk →
      ∃ t v, exec (.grow rd q) s = .next t ∧ WritesOnlyVec s t rd ⟨s.pn, v⟩ s.pn ∧
        (∀ j, 1 ≤ j → j ≤ s.pk → (t.vec rd).elem (j - 1) = decide (j = q)) ∧
        ∀ i, 1 ≤ i → i ≤ s.pr → (t.vec rd).elem (s.pk + i - 1) = hEntry s.pk s.pr i q)

/-! ### Encoding -/

/-- 30_encoding R91, R94, R95: decoding the word of a well-formed command gives the command back. -/
def Obligations.DecodeOfEncode : Prop := ∀ i : Instr, i.wf → decode (encode i) = .ok i

/-- 30_encoding R91, R94, R95: a word that decodes is the word of the command it decodes to, which is well-formed. -/
def Obligations.EncodeOfDecode : Prop := ∀ (w : Word) (i : Instr), decode w = .ok i → i.wf ∧ encode i = w

/-- 30_encoding R94, R98: a word decodes exactly when it equals the match of some row of the opcode map under that row's
mask, and at most one row does. -/
def Obligations.DecodeAcceptsByMaskAndMatch : Prop :=
  ∀ w : Word, ((∃ i, decode w = .ok i) ↔ ∃ row ∈ opcodeMap, w &&& row.mask = row.matchWord) ∧
    ∀ row ∈ opcodeMap, ∀ row' ∈ opcodeMap, w &&& row.mask = row.matchWord → w &&& row'.mask = row'.matchWord →
      row.op = row'.op

/-- 30_encoding R102: the encoding examples decode to their commands. -/
def Obligations.EncodingExamplesDecode : Prop :=
  decode 0x000022C1#32 = .ok (.xor 3 1 2) ∧ decode 0x00011968#32 = .ok (.decCyc 5 4 1 1) ∧
    decode 0x01040011#32 = .ok (.rslvBch 4 1) ∧ decode 0x00040010#32 = .ok (.rslvH 4) ∧
    decode 0x00030087#32 = .ok (.shlx 2 0 3)

/-! ### Commands as a whole -/

/-- 60_exceptions R254: a command that raises an error writes only STATUS. -/
def Obligations.FailuresWriteOnlyStatus : Prop :=
  ∀ (i : Instr) (s t : State), exec i s = .next t → t.err ≠ .ok →
    t = { s with err := t.err, done := true, busy := false }

/-- 70 R288, 10_state R38, 93 I11: every command completes in the engine's one step, with DONE = 1 and BUSY = 0, and its
error code is none of the reserved ones and not IllegalCommand. -/
def Obligations.EveryCommandCompletes : Prop :=
  ∀ (i : Instr) (s : State), ∃ t, exec i s = .next t ∧ t.done = true ∧ t.busy = false ∧
    t.err ≠ .positionError ∧ t.err ≠ .exceedsCapability ∧ t.err ≠ .illegalCommand

/-- 10_state R37, R35: what each group of commands may write: no vector register but its RD, and RESULT, the parameter
registers and DSTAT as the groups say; CTRL, OVR and CMD never. -/
def Obligations.CommandsWriteOnlyTheirDestination : Prop :=
  ∀ (s t : State) (rd ra rb : VIdx) (x y : Nat),
    (exec (.xor rd ra rb) s = .next t ∨ exec (.mul rd ra rb) s = .next t ∨ exec (.mod rd ra rb) s = .next t ∨
      exec (.rotl rd ra) s = .next t ∨ exec (.rotr rd ra) s = .next t ∨ exec (.shlx rd ra x) s = .next t ∨
      exec (.synBch rd) s = .next t ∨ exec (.encPoly rd ra rb) s = .next t ∨ exec (.encMat rd ra) s = .next t ∨
      exec (.info rd ra) s = .next t ∨ exec (.synm rd ra) s = .next t ∨ exec (.hrow rd x) s = .next t ∨
      exec (.hcol rd x) s = .next t ∨ exec (.grow rd x) s = .next t →
        KeepsVectorsBut s t rd ∧ t.params = s.params ∧ t.dstat = s.dstat ∧ KeepsHostSide s t) ∧
    (exec (.decCyc rd ra rb x) s = .next t ∨ exec (.decMat rd ra) s = .next t →
      KeepsVectorsBut s t rd ∧ t.params = s.params ∧ KeepsHostSide s t) ∧
    (exec (.synCyc rd x) s = .next t →
      KeepsVectorsBut s t rd ∧ t.dstat = s.dstat ∧ KeepsHostSide s t ∧ t.params.k = s.params.k ∧
        t.params.s = s.params.s ∧ t.params.kreq = s.params.kreq ∧ t.params.mode = s.params.mode) ∧
    (exec (.wgt ra) s = .next t →
      t.vregs = s.vregs ∧ t.params = s.params ∧ t.dstat = s.dstat ∧ KeepsHostSide s t) ∧
    (exec (.rslvH x) s = .next t ∨ exec (.rslvBch x y) s = .next t ∨ exec .clrp s = .next t →
      t.vregs = s.vregs ∧ t.dstat = s.dstat ∧ KeepsHostSide s t)

/-! ### The machine -/

/-- 70 R283 (b), 30_encoding R98, and the model's schedule (log 1): when the engine moves next and a command is in flight, a step is `exec` of the decoded
command on the state without that turn; with none in flight it changes nothing else (60_exceptions R270). -/
def Obligations.StepRunsDecodedCommand : Prop :=
  ∀ (s : State) (rest : List Turn), s.schedule = .engine :: rest →
    (∀ i, s.busy = true → decode s.cmd = .ok i → step s = exec i { s with schedule := rest }) ∧
    (s.busy = false → step s = .next { s with schedule := rest }) ∧
    (∀ i, s.busy = true → decode s.cmd = .ok i → step { s with schedule := [] } = exec i { s with schedule := [] })

/-- 70 R283, 10_state R40, and the model's schedule (log 1): a CMD write while BUSY = 0 accepts the word; the engine's turn after it completes the command
the word decodes to. -/
def Obligations.IssueThenComplete : Prop :=
  ∀ (s : State) (w : Word) (rest : List Turn), s.busy = false →
    s.schedule = .busWrite 0x00C 32 w :: .engine :: rest →
    ∃ t, step s = .next t ∧
      t = { s with cmd := w, busy := true, done := false, err := .ok, schedule := .engine :: rest,
                   lastResponse := .writeDone } ∧
      (∀ i, decode w = .ok i → step t = exec i { t with schedule := rest }) ∧
      (∀ i, w = encode i → i.wf → step t = exec i { t with schedule := rest })

/-- 60_exceptions R259: a word whose OP is not assigned, or with Z = 1, or with a nonzero field its command does not use,
completes with IllegalCommand and writes only STATUS. That the check is part of the completion step is the model's reading
(log 12). -/
def Obligations.IllegalWordsRaiseIllegalCommand : Prop :=
  ∀ (s : State) (rest : List Turn), s.busy = true → s.schedule = .engine :: rest →
    ((∀ row ∈ opcodeMap, row.op ≠ opField s.cmd) ∨ zField s.cmd = 1 ∨
      (∃ row ∈ opcodeMap, row.op = opField s.cmd ∧ s.cmd &&& row.mask ≠ row.matchWord)) →
    step s = .next { s with err := .illegalCommand, done := true, busy := false, schedule := rest }

/-- 10_state R55: the state right after reset; a reset leaves the configuration unchanged. -/
def Obligations.ResetState : Prop :=
  State.reset.readReg .id = 0x47460140#32 ∧ State.reset.ctrlWord = 0#32 ∧ State.reset.statusWord = 0#32 ∧
    State.reset.cmd = 0#32 ∧ State.reset.result = 0#32 ∧ HoldsParams State.reset 0 0 0 0 0 0 .none ∧
    (∀ i : VIdx, State.reset.vreg i = ⟨0, 0#64⟩) ∧ State.reset.busy = false ∧ State.reset.irq = false ∧
    ∀ s : State, s.resetCore.tables = s.tables

/-- 70 R280, R281, R282: hardware reset, and a host write of CTRL with bit 1 = 1 at any time, put CORE into the reset
state. What the schedule and the bus response become is the model's (log 16). -/
def Obligations.ResetsReturnToResetState : Prop :=
  ∀ (s : State) (rest : List Turn) (v : Word),
    (s.schedule = .hardReset :: rest →
      step s = .next { State.reset with tables := s.tables, schedule := rest, lastResponse := s.lastResponse }) ∧
    (s.schedule = .busWrite 0x004 32 v :: rest → v.getLsbD 1 = true →
      step s = .next { State.reset with tables := s.tables, schedule := rest, lastResponse := .writeDone })

/-- 10_state R32, R38: a CTRL write with bit 1 = 0 only sets IE from bit 0, and a STATUS write only clears DONE and OVR
where its bits 1 and 2 are 1, whether a command is in flight or not (70 R285). -/
def Obligations.ControlAndStatusWrites : Prop :=
  ∀ (s : State) (rest : List Turn) (v : Word),
    (s.schedule = .busWrite 0x004 32 v :: rest → v.getLsbD 1 = false →
      step s = .next { s with ie := v.getLsbD 0, schedule := rest, lastResponse := .writeDone }) ∧
    (s.schedule = .busWrite 0x008 32 v :: rest →
      ∃ t, step s = .next t ∧ t.done = (s.done && !v.getLsbD 1) ∧ t.ovr = (s.ovr && !v.getLsbD 2) ∧
        t = { s with done := t.done, ovr := t.ovr, schedule := rest, lastResponse := .writeDone })

/-- 10_state R38: the layout of STATUS, and of CTRL's read value (10_state R32), with the numbers of the error codes
(60_exceptions R250). -/
def Obligations.StatusAndControlLayout : Prop :=
  (ErrCode.code .ok = 0 ∧ ErrCode.code .invalidInput = 1 ∧ ErrCode.code .divisionByZero = 2 ∧
    ErrCode.code .noSuitableParameters = 3 ∧ ErrCode.code .noGeneratorFound = 4 ∧
    ErrCode.code .missingMinimalPolynomial = 5 ∧ ErrCode.code .positionError = 6 ∧
    ErrCode.code .exceedsCapability = 7 ∧ ErrCode.code .illegalCommand = 8 ∧ ErrCode.code .sessionError = 9 ∧
    ErrCode.code .capacityExceeded = 10) ∧
  ∀ s : State,
    (s.statusWord.getLsbD 0 = s.busy ∧ s.statusWord.getLsbD 1 = s.done ∧ s.statusWord.getLsbD 2 = s.ovr ∧
      s.statusWord.extractLsb' 3 5 = 0#5 ∧ (s.statusWord.extractLsb' 8 8).toNat = s.err.code ∧
      (s.statusWord.extractLsb' 16 3).toNat = s.dstat.code ∧ s.statusWord.extractLsb' 19 13 = 0#13) ∧
    s.ctrlWord.getLsbD 0 = s.ie ∧ s.ctrlWord.extractLsb' 1 31 = 0#31

/-- 70 R284, 20_memory R71, R76, R77: while BUSY = 1 a write of CMD or of a vector register field is ignored and sets
OVR. At all times a write of a read-only or reserved register is ignored, sets nothing and is answered normally, and a
read is answered and changes nothing. That a read of a vector register is answered while BUSY = 1 is the model's reading
(log 17), and so is the normal answer to a lost write (log 25). -/
def Obligations.InterlockAndIgnoredWrites : Prop :=
  ∀ (s : State) (rest : List Turn) (off : Nat) (v : Word), off < 0x200 → off % 4 = 0 →
    (s.busy = true → s.schedule = .busWrite off 32 v :: rest → off = 0x00C ∨ vectorField off →
      step s = .next { s with ovr := true, schedule := rest, lastResponse := .writeDone }) ∧
    (s.schedule = .busWrite off 32 v :: rest → off ≠ 0x004 → off ≠ 0x008 → off ≠ 0x00C → ¬ vectorField off →
      step s = .next { s with schedule := rest, lastResponse := .writeDone }) ∧
    (s.schedule = .busRead off 32 :: rest →
      step s = .next { s with schedule := rest, lastResponse := .readData (s.readReg (regAt off)) })

/-- 20_memory R71: what each register of the window reads as, with the numbers of PMODE (10_state R49), whether a command is in flight or not. That LEN, DLO and DHI
are answered while BUSY = 1 too is the model's reading of 10_state R36 and 70 R284 (log 17). -/
def Obligations.RegisterWindowReads : Prop :=
  (Mode.code .none = 0 ∧ Mode.code .formula = 1 ∧ Mode.code .bch = 2) ∧
  ∀ (s : State) (rest : List Turn),
    (∀ off w, (off, w) ∈ [(0x000, 0x47460140#32), (0x004, s.ctrlWord), (0x008, s.statusWord), (0x00C, s.cmd),
        (0x010, s.result), (0x020, s.params.k), (0x024, s.params.r), (0x028, s.params.n), (0x02C, s.params.s),
        (0x030, s.params.h), (0x034, s.params.kreq), (0x038, wordOf s.params.mode.code)] →
      s.schedule = .busRead off 32 :: rest →
      step s = .next { s with schedule := rest, lastResponse := .readData w }) ∧
    (∀ (i : VIdx) (j : Nat) (w : Word), (j, w) ∈ [(0, wordOf (s.vreg i).len), (4, (s.vreg i).data.extractLsb' 0 32),
        (8, (s.vreg i).data.extractLsb' 32 32), (12, 0#32)] →
      s.schedule = .busRead (0x100 + 0x10 * i.val + j) 32 :: rest →
      step s = .next { s with schedule := rest, lastResponse := .readData w }) ∧
    ∀ off, off % 4 = 0 → (0x014 ≤ off ∧ off < 0x020 ∨ 0x03C ≤ off ∧ off < 0x100 ∨ 0x180 ≤ off ∧ off < 0x200) →
      s.schedule = .busRead off 32 :: rest →
      step s = .next { s with schedule := rest, lastResponse := .readData 0#32 }

/-- 10_state R36: host writes of LEN, DLO and DHI while no command is in flight: LEN becomes min(w, 64), and the 32 DATA
bits named are set without regard to LEN; the rest of the vector register and every other one stay. -/
def Obligations.HostVectorWrites : Prop :=
  ∀ (s : State) (rest : List Turn) (i : VIdx) (v : Word), s.busy = false →
    (s.schedule = .busWrite (0x100 + 0x10 * i.val) 32 v :: rest →
      ∃ t, step s = .next t ∧ (t.vreg i).len.val = min v.toNat 64 ∧ (t.vreg i).data = (s.vreg i).data ∧
        KeepsVectorsBut s t i ∧ t = { s with vregs := t.vregs, schedule := rest, lastResponse := .writeDone }) ∧
    (s.schedule = .busWrite (0x104 + 0x10 * i.val) 32 v :: rest →
      ∃ t, step s = .next t ∧ (t.vreg i).len = (s.vreg i).len ∧ (t.vreg i).data.extractLsb' 0 32 = v ∧
        (t.vreg i).data.extractLsb' 32 32 = (s.vreg i).data.extractLsb' 32 32 ∧
        KeepsVectorsBut s t i ∧ t = { s with vregs := t.vregs, schedule := rest, lastResponse := .writeDone }) ∧
    (s.schedule = .busWrite (0x108 + 0x10 * i.val) 32 v :: rest →
      ∃ t, step s = .next t ∧ (t.vreg i).len = (s.vreg i).len ∧ (t.vreg i).data.extractLsb' 32 32 = v ∧
        (t.vreg i).data.extractLsb' 0 32 = (s.vreg i).data.extractLsb' 0 32 ∧
        KeepsVectorsBut s t i ∧ t = { s with vregs := t.vregs, schedule := rest, lastResponse := .writeDone })

/-- 20_memory R72, R75, 60_exceptions R261: an access of another width or alignment gets an error response and changes no
CORE state, and a read so answered returns 0. That the model answers so and does not refuse is its choice (log 3). -/
def Obligations.WrongAccessesChangeNothing : Prop :=
  ∀ (s : State) (rest : List Turn) (off size : Nat) (v : Word), off < 0x200 → size ≠ 32 ∨ off % 4 ≠ 0 →
    (s.schedule = .busRead off size :: rest →
      step s = .next { s with schedule := rest, lastResponse := .readError 0#32 }) ∧
    (s.schedule = .busWrite off size v :: rest →
      step s = .next { s with schedule := rest, lastResponse := .writeError })

/-- 60_exceptions R262, R263: irq is IE AND DONE; it is 1 from the completion of a command while IE = 1, and goes to 0 by a
STATUS write with bit 1 = 1, a CTRL write with bit 0 = 0, the acceptance of a command, or a hardware or soft reset
(70 R281: whatever bit 0 of the CTRL write is); setting IE while DONE = 1 raises it. -/
def Obligations.InterruptFollowsCompletion : Prop :=
  (∀ s : State, s.irq = (s.ie && s.done)) ∧
  (∀ (i : Instr) (s : State), ∃ t, exec i s = .next t ∧ t.irq = s.ie) ∧
  ∀ (s : State) (rest : List Turn) (v : Word),
    (s.schedule = .busWrite 0x008 32 v :: rest → v.getLsbD 1 = true → ∃ t, step s = .next t ∧ t.irq = false) ∧
    (s.schedule = .busWrite 0x004 32 v :: rest → v.getLsbD 0 = false → ∃ t, step s = .next t ∧ t.irq = false) ∧
    (s.schedule = .busWrite 0x00C 32 v :: rest → s.busy = false → ∃ t, step s = .next t ∧ t.irq = false) ∧
    (s.schedule = .hardReset :: rest → ∃ t, step s = .next t ∧ t.irq = false) ∧
    (s.schedule = .busWrite 0x004 32 v :: rest → v.getLsbD 1 = true → ∃ t, step s = .next t ∧ t.irq = false) ∧
    (s.schedule = .busWrite 0x004 32 v :: rest → v.getLsbD 0 = true → v.getLsbD 1 = false → s.done = true →
      ∃ t, step s = .next t ∧ t.irq = true)

/-- 10_state R42 to R49, 60_exceptions R250, 70 R283: the invariant holds right after reset. -/
def Obligations.InvariantHoldsAtReset : Prop := State.reset.Inv

/-- 10_state R42, R45, R47 to R49, 60_exceptions R250, 70 R283, under every conforming configuration: every step
keeps the invariant: a consistent session, no DONE or ERR while a command is in flight, no reserved error code. -/
def Obligations.EveryStepKeepsInvariant : Prop := ∀ s t : State, s.Inv → step s = .next t → t.Inv

/-- 70 R283 (derived), R284, R285, 20_memory R83: whatever the host reads and writes while a command is in flight, short
of a reset, the command completes exactly as if the host had done nothing: the same vector registers, parameter
registers, RESULT, CMD and status of the command. -/
def Obligations.InFlightCommandCannotBeDisturbed : Prop :=
  ∀ (s : State) (accesses rest : List Turn), s.busy = true → (∀ u ∈ accesses, harmless u) →
    ∃ t t', step { s with schedule := .engine :: rest } = .next t ∧
      run (accesses.length + 1) { s with schedule := accesses ++ .engine :: rest } = .next t' ∧
      t'.vregs = t.vregs ∧ t'.params = t.params ∧ t'.result = t.result ∧ t'.cmd = t.cmd ∧ t'.err = t.err ∧
      t'.dstat = t.dstat ∧ t'.done = t.done ∧ t'.busy = t.busy ∧ t'.schedule = t.schedule

/-- 70 R288: a command in flight ends, at the latest at the engine's turn after everything scheduled (log 8). -/
def Obligations.InFlightCommandEnds : Prop :=
  ∀ s : State, s.busy = true → (∀ u ∈ s.schedule, safeTurn u) →
    ∃ n t, n ≤ s.schedule.length + 1 ∧ run n s = .next t ∧ t.busy = false
end

