-- ==== Sys2Proof/Laws/Decode.lean ====
section
/-! SUPPORT. Reading the fields of a word of format C back, and laying a word out in bytes (30_encoding R91,
20_memory R74). -/

namespace Sys2Proof

/-- The fields' values of a word of format C with Z = 0, when each fits its field. -/
structure FormatFits (op rd ra rb imma immb : Nat) : Prop where
  op_lt : op < 2 ^ 6
  rd_lt : rd < 2 ^ 3
  ra_lt : ra < 2 ^ 3
  rb_lt : rb < 2 ^ 3
  imma_lt : imma < 2 ^ 8
  immb_lt : immb < 2 ^ 8

section
variable {op rd ra rb imma immb : Nat} (h : FormatFits op rd ra rb imma immb)
include h

theorem toNat_formatC :
    (formatC op rd ra rb imma immb).toNat =
      op + rd * 2 ^ 6 + ra * 2 ^ 9 + rb * 2 ^ 12 + imma * 2 ^ 16 + immb * 2 ^ 24 := by
  obtain ⟨h1, h2, h3, h4, h5, h6⟩ := h
  simp only [formatC, BitVec.toNat_ofNat]
  omega

theorem opField_formatC : opField (formatC op rd ra rb imma immb) = op := by
  simp only [opField, fieldBits, toNat_formatC h]
  obtain ⟨h1, h2, h3, h4, h5, h6⟩ := h
  omega

theorem rdField_formatC : (rdField (formatC op rd ra rb imma immb)).val = rd := by
  simp only [rdField, regField, fieldBits, toNat_formatC h]
  obtain ⟨h1, h2, h3, h4, h5, h6⟩ := h
  omega

theorem raField_formatC : (raField (formatC op rd ra rb imma immb)).val = ra := by
  simp only [raField, regField, fieldBits, toNat_formatC h]
  obtain ⟨h1, h2, h3, h4, h5, h6⟩ := h
  omega

theorem rbField_formatC : (rbField (formatC op rd ra rb imma immb)).val = rb := by
  simp only [rbField, regField, fieldBits, toNat_formatC h]
  obtain ⟨h1, h2, h3, h4, h5, h6⟩ := h
  omega

theorem zField_formatC : zField (formatC op rd ra rb imma immb) = 0 := by
  simp only [zField, fieldBits, toNat_formatC h]
  obtain ⟨h1, h2, h3, h4, h5, h6⟩ := h
  omega

theorem immaField_formatC : immaField (formatC op rd ra rb imma immb) = imma := by
  simp only [immaField, fieldBits, toNat_formatC h]
  obtain ⟨h1, h2, h3, h4, h5, h6⟩ := h
  omega

theorem immbField_formatC : immbField (formatC op rd ra rb imma immb) = immb := by
  simp only [immbField, fieldBits, toNat_formatC h]
  obtain ⟨h1, h2, h3, h4, h5, h6⟩ := h
  omega

end

/-- A word is the word of its fields, when Z = 0. -/
theorem formatC_fields {w : Word} (hz : zField w = 0) :
    formatC (opField w) (rdField w) (raField w) (rbField w) (immaField w) (immbField w) = w := by
  apply BitVec.eq_of_toNat_eq
  have := w.isLt
  simp only [formatC, BitVec.toNat_ofNat, opField, rdField, raField, rbField, immaField, immbField, regField]
  simp only [zField] at hz
  simp only [fieldBits] at *
  omega

/-- A word's bytes, put together again, are the word (20_memory R74). -/
@[simp] theorem wordOfBytes_wordBytes (w : Word) :
    wordOfBytes (wordByte w 0) (wordByte w 1) (wordByte w 2) (wordByte w 3) = w := by
  apply BitVec.eq_of_getLsbD_eq
  intro i hi
  simp only [wordOfBytes, wordByte, BitVec.getLsbD_append, BitVec.getLsbD_extractLsb']
  split
  · simp [*]
  · split
    · rename_i h1 h2; simp [h2]; congr 1; omega
    · split
      · rename_i h1 h2 h3; simp [h3]; congr 1; omega
      · rename_i h1 h2 h3
        have : i - 8 - 8 - 8 < 8 := by omega
        simp [this]; congr 1; omega

/-- The four bytes of a word decode to what the word decodes to. -/
theorem decodeBytes_wordBytes (w : Word) (rest : List Byte) :
    decodeBytes (wordBytes w ++ rest) = (decode w).map fun i => (i, rest) := by
  simp only [wordBytes, List.cons_append, List.nil_append, decodeBytes, wordOfBytes_wordBytes]
  cases decode w <;> rfl

/-- The opcode table's word of 32 bits decodes as the word itself. -/
theorem decodeTableWord_toNat (w : Word) : decodeTableWord 32 w.toNat = (decode w).toOption := by
  have hw : tableWord 32 w.toNat = w := by
    apply BitVec.eq_of_toNat_eq
    have := w.isLt
    simp only [tableWord, BitVec.toNat_ofNat]
    omega
  unfold decodeTableWord
  rw [hw, ← List.append_nil (wordBytes w), decodeBytes_wordBytes]
  cases decode w <;> rfl

end Sys2Proof
end

