-- ==== Sys2Proof/Laws/Polynomial.lean ====
section
/-! SUPPORT. What the arithmetic primitives and the BitVector operations are: their equations, the lengths of their
results, and that they keep a BitVector inside its length. -/

namespace Sys2Proof.Machine

@[simp] theorem popcountBits_zero (n : Nat) : popcountBits n 0 = 0 := by
  induction n with
  | zero => rfl
  | succ n ih => simp [popcountBits, ih]

@[simp] theorem popcount_zero : popcount 0 = 0 := popcountBits_zero _

/-- Counting more bits than a number has changes nothing. -/
theorem popcountBits_eq_of_lt {n m : Nat} : ∀ {a : Nat}, a < 2 ^ n → n ≤ m → popcountBits m a = popcountBits n a := by
  induction n generalizing m with
  | zero => intro a h _; obtain rfl : a = 0 := by simpa using h
            simp
  | succ n ih =>
    intro a h hm
    obtain ⟨m, rfl⟩ : ∃ m', m = m' + 1 := ⟨m - 1, by omega⟩
    simp only [popcountBits]
    rw [ih (by omega) (by omega)]

/-- `popcount` counts the bits below any bound on its argument. -/
theorem popcount_eq_popcountBits {n a : Nat} (h : a < 2 ^ n) : popcount a = popcountBits n a := by
  rcases Nat.eq_zero_or_pos a with rfl | ha
  · simp
  · exact (popcountBits_eq_of_lt Nat.lt_log2_self (by have := (Nat.log2_lt (by omega)).2 h; omega)).symm

theorem popcount_pos {a : Nat} (h : a ≠ 0) : 0 < popcount a := by
  have key : ∀ n a, a ≠ 0 → a < 2 ^ n → 0 < popcountBits n a := by
    intro n
    induction n with
    | zero => intro a ha hlt; simp at hlt; omega
    | succ n ih =>
      intro a ha hlt
      simp only [popcountBits]
      by_cases h2 : a / 2 = 0
      · have : a % 2 = 1 := by omega
        omega
      · have := ih (a / 2) h2 (by omega)
        omega
  exact key _ _ h Nat.lt_log2_self

@[simp] theorem clmulBits_zero_right (n a : Nat) : clmulBits n a 0 = 0 := by
  induction n with
  | zero => rfl
  | succ n ih => simp [clmulBits, ih]

@[simp] theorem clmul_zero_right (a : Nat) : clmul a 0 = 0 := clmulBits_zero_right _ _

/-- Bits of `b` above its leading bit add nothing to the product. -/
theorem clmulBits_eq_of_lt {n m a b : Nat} (hb : b < 2 ^ n) (h : n ≤ m) : clmulBits m a b = clmulBits n a b := by
  induction m with
  | zero => obtain rfl : n = 0 := by omega
            rfl
  | succ m ih =>
    rcases Nat.lt_or_eq_of_le h with hlt | rfl
    · have hbit : b.testBit m = false :=
        Nat.testBit_lt_two_pow (Nat.lt_of_lt_of_le hb (Nat.pow_le_pow_right (by omega) (by omega)))
      simp [clmulBits, hbit, ih (by omega)]
    · rfl

/-- `clmul` sums over the bits of `b` below any bound on it. -/
theorem clmul_eq_clmulBits {n a b : Nat} (hb : b < 2 ^ n) : clmul a b = clmulBits n a b := by
  rcases Nat.eq_zero_or_pos b with rfl | h
  · simp
  · exact (clmulBits_eq_of_lt Nat.lt_log2_self (by have := (Nat.log2_lt (by omega)).2 hb; omega)).symm

theorem clmulBits_lt {n a b L : Nat} (ha : a < 2 ^ L) : clmulBits n a b < 2 ^ (L + n - 1) ∨ n = 0 ∨ a = 0 := by
  induction n with
  | zero => exact .inr (.inl rfl)
  | succ n ih =>
    by_cases h0 : a = 0
    · exact .inr (.inr h0)
    have hL : 0 < L := by
      rcases Nat.eq_zero_or_pos L with rfl | h
      · simp at ha; omega
      · exact h
    left
    simp only [clmulBits]
    have hshift : a <<< n < 2 ^ (L + (n + 1) - 1) := by
      rw [Nat.shiftLeft_eq, show L + (n + 1) - 1 = L + n by omega, Nat.pow_add]
      exact Nat.mul_lt_mul_of_pos_right ha (Nat.two_pow_pos n)
    have hlow : clmulBits n a b < 2 ^ (L + (n + 1) - 1) := by
      rcases ih with h | rfl | h
      · exact Nat.lt_of_lt_of_le h (Nat.pow_le_pow_right (by omega) (by omega))
      · exact Nat.two_pow_pos _
      · exact absurd h h0
    split
    · exact Nat.xor_lt_two_pow hlow hshift
    · simpa using hlow

/-- The product fits in len(a) + len(b) - 1 bits (41 R122). -/
theorem clmul_lt {a b la lb : Nat} (ha : a < 2 ^ la) (hb : b < 2 ^ lb) : clmul a b < 2 ^ (la + lb - 1) := by
  rw [clmul_eq_clmulBits hb]
  rcases clmulBits_lt (n := lb) (b := b) ha with h | rfl | rfl
  · exact h
  · exact Nat.two_pow_pos _
  · have : ∀ n, clmulBits n 0 b = 0 := by
      intro n
      induction n with
      | zero => rfl
      | succ n ih => simp [clmulBits, ih]
    rw [this]
    exact Nat.two_pow_pos _

/-- One round of the division clears the leading bit of a nonzero dividend that is not shorter than the divisor. -/
theorem xor_shift_lt {a b : Nat} (ha : a ≠ 0) (hb : b ≠ 0) (h : b.log2 ≤ a.log2) :
    a ^^^ (b <<< (a.log2 - b.log2)) < 2 ^ a.log2 := by
  apply Nat.lt_pow_two_of_testBit
  intro i hi
  rw [Nat.testBit_xor, Nat.testBit_shiftLeft]
  rcases Nat.eq_or_lt_of_le hi with rfl | hlt
  · have h1 : a.testBit a.log2 = true := Nat.testBit_log2 ha
    have h2 : b.testBit b.log2 = true := Nat.testBit_log2 hb
    simp [h1, show a.log2 - (a.log2 - b.log2) = b.log2 by omega, h2]
  · have h1 : a.testBit i = false :=
      Nat.testBit_lt_two_pow (Nat.lt_of_lt_of_le Nat.lt_log2_self (Nat.pow_le_pow_right (by omega) (by omega)))
    have h2 : b.testBit (i - (a.log2 - b.log2)) = false :=
      Nat.testBit_lt_two_pow (Nat.lt_of_lt_of_le Nat.lt_log2_self (Nat.pow_le_pow_right (by omega) (by omega)))
    simp [h1, h2]

/-- With enough rounds the division ends below the degree of the divisor. -/
theorem clmodLoop_lt {b : Nat} (hb : b ≠ 0) : ∀ {fuel a : Nat}, a < 2 ^ fuel → clmodLoop fuel a b < 2 ^ b.log2 := by
  intro fuel
  induction fuel with
  | zero => intro a h; simp at h; simp [clmodLoop, h]
  | succ fuel ih =>
    intro a h
    simp only [clmodLoop]
    split
    · rename_i hc
      apply ih
      refine Nat.lt_of_lt_of_le (xor_shift_lt hc.1 hb hc.2) (Nat.pow_le_pow_right (by omega) ?_)
      have := (Nat.log2_lt hc.1).2 h
      omega
    · rename_i hc
      by_cases ha : a = 0
      · simp [ha]
      · have : a.log2 < b.log2 := by
          by_contra hn
          exact hc ⟨ha, by omega⟩
        exact (Nat.log2_lt ha).1 this

/-- The remainder has degree below the divisor's (00_scope R20). -/
theorem clmod_lt {b : Nat} (hb : b ≠ 0) (a : Nat) : clmod a b < 2 ^ b.log2 := clmodLoop_lt hb Nat.lt_log2_self

/-- The remainder fits in len(b) - 1 bits (41 R123). -/
theorem clmod_lt_len {a b lb : Nat} (hb : b ≠ 0) (h : b < 2 ^ lb) : clmod a b < 2 ^ (lb - 1) := by
  refine Nat.lt_of_lt_of_le (clmod_lt hb a) (Nat.pow_le_pow_right (by omega) ?_)
  have := (Nat.log2_lt hb).2 h
  omega

@[simp] theorem clmod_zero_left (b : Nat) : clmod 0 b = 0 := by simp [clmod, clmodLoop]

/-- `clog2 x` is the least exponent `e` with `x ≤ 2 ^ e` (00_scope R20). -/
theorem clog2_le_iff {x e : Nat} : clog2 x ≤ e ↔ x ≤ 2 ^ e := by
  unfold clog2
  split
  · rename_i h
    have := Nat.two_pow_pos e
    constructor <;> intro <;> omega
  · rename_i h
    have h1 := Nat.log2_lt (n := x - 1) (k := e) (by omega)
    constructor
    · intro he
      have := h1.1 (by omega)
      omega
    · intro he
      have := h1.2 (by omega)
      omega

end Sys2Proof.Machine

namespace Sys2Proof.BVec

open Sys2Proof.Machine

@[simp] theorem len_xorAdd (a b : BVec) : (a.xorAdd b).len = max a.len b.len := rfl
@[simp] theorem val_xorAdd (a b : BVec) : (a.xorAdd b).val = a.val ^^^ b.val := rfl
@[simp] theorem len_modDivide (a b : BVec) : (a.modDivide b).len = b.len - 1 := rfl
@[simp] theorem val_modDivide (a b : BVec) : (a.modDivide b).val = clmod a.val b.val := rfl
@[simp] theorem len_pad (m : Nat) (a : BVec) : (a.pad m).len = m := rfl
@[simp] theorem val_pad (m : Nat) (a : BVec) : (a.pad m).val = a.val := rfl
@[simp] theorem len_mulXPow (a : BVec) (r : Nat) : (a.mulXPow r).len = a.len + r := rfl
@[simp] theorem val_mulXPow (a : BVec) (r : Nat) : (a.mulXPow r).val = a.val <<< r := rfl
@[simp] theorem len_flip (a : BVec) (i : Nat) : (a.flip i).len = a.len := rfl

@[simp] theorem len_rotl (a : BVec) : a.rotl.len = a.len := by
  unfold rotl
  split
  · rename_i h; simp [h]
  · rfl

@[simp] theorem len_rotr (a : BVec) : a.rotr.len = a.len := by
  unfold rotr
  split
  · rename_i h; simp [h]
  · rfl

@[simp] theorem rotrTimes_zero (a : BVec) : a.rotrTimes 0 = a := rfl
@[simp] theorem rotlTimes_zero (a : BVec) : a.rotlTimes 0 = a := rfl
theorem rotrTimes_succ (c : Nat) (a : BVec) : a.rotrTimes (c + 1) = a.rotr.rotrTimes c := rfl
theorem rotlTimes_succ (c : Nat) (a : BVec) : a.rotlTimes (c + 1) = a.rotl.rotlTimes c := rfl

@[simp] theorem len_rotrTimes (c : Nat) (a : BVec) : (a.rotrTimes c).len = a.len := by
  induction c generalizing a with
  | zero => rfl
  | succ c ih => rw [rotrTimes_succ, ih, len_rotr]

@[simp] theorem len_rotlTimes (c : Nat) (a : BVec) : (a.rotlTimes c).len = a.len := by
  induction c generalizing a with
  | zero => rfl
  | succ c ih => rw [rotlTimes_succ, ih, len_rotl]

theorem rotl_fits {a : BVec} (h : a.Fits) : a.rotl.Fits := by
  unfold rotl
  split
  · exact ⟨by simp, by simp⟩
  · refine ⟨h.1, ?_⟩
    refine Nat.lt_of_le_of_lt Nat.and_le_right ?_
    have := Nat.two_pow_pos a.len
    simp only
    omega

theorem rotr_fits {a : BVec} (h : a.Fits) : a.rotr.Fits := by
  unfold rotr
  split
  · exact ⟨by simp, by simp⟩
  · rename_i hl
    refine ⟨h.1, Nat.or_lt_two_pow ?_ ?_⟩
    · exact Nat.lt_of_le_of_lt (Nat.shiftRight_le _ _) h.2
    · have h1 : a.val &&& 1 ≤ 1 := Nat.and_le_right
      have h2 : 2 ^ a.len = 2 * 2 ^ (a.len - 1) := by
        rw [← Nat.pow_succ', show (a.len - 1).succ = a.len by omega]
      have := Nat.two_pow_pos (a.len - 1)
      simp only [Nat.shiftLeft_eq]
      nlinarith

theorem rotrTimes_fits {a : BVec} (h : a.Fits) (c : Nat) : (a.rotrTimes c).Fits := by
  induction c generalizing a with
  | zero => exact h
  | succ c ih => exact ih (rotr_fits h)

theorem rotlTimes_fits {a : BVec} (h : a.Fits) (c : Nat) : (a.rotlTimes c).Fits := by
  induction c generalizing a with
  | zero => exact h
  | succ c ih => exact ih (rotl_fits h)

theorem xorAdd_fits {a b : BVec} (ha : a.Fits) (hb : b.Fits) : (a.xorAdd b).Fits := by
  refine ⟨Nat.max_le.2 ⟨ha.1, hb.1⟩, Nat.xor_lt_two_pow ?_ ?_⟩
  · exact Nat.lt_of_lt_of_le ha.2 (Nat.pow_le_pow_right (by omega) (Nat.le_max_left _ _))
  · exact Nat.lt_of_lt_of_le hb.2 (Nat.pow_le_pow_right (by omega) (Nat.le_max_right _ _))

theorem modDivide_fits {a b : BVec} (hb : b.Fits) (h : b.val ≠ 0) : (a.modDivide b).Fits :=
  ⟨Nat.le_trans (Nat.sub_le _ _) hb.1, clmod_lt_len h hb.2⟩

theorem mulXPow_fits {a : BVec} {r : Nat} (ha : a.Fits) (h : a.len + r ≤ Config.W) : (a.mulXPow r).Fits := by
  refine ⟨h, ?_⟩
  simp only [mulXPow, Nat.shiftLeft_eq, Nat.pow_add]
  exact Nat.mul_lt_mul_of_pos_right ha.2 (Nat.two_pow_pos r)

/-- What `multiply` answers: one of its two errors, or a product that fits (41 R122). -/
theorem multiply_fits {a b p : BVec} (ha : a.Fits) (hb : b.Fits) (h : a.multiply b = .ok p) :
    p = ⟨a.len + b.len - 1, clmul a.val b.val⟩ ∧ p.Fits := by
  unfold multiply at h
  split at h
  · simp at h
  · split at h
    · simp at h
    · simp only [Except.ok.injEq] at h
      subst h
      exact ⟨rfl, by simp only; omega, clmul_lt ha.2 hb.2⟩

end Sys2Proof.BVec
end

