-- ==== Sys2Proof/Laws/Operands.lean ====
section
/-! SUPPORT. Reading and writing vector registers: an operand always fits, a write of a BitVector that fits reads back as
it, and a write leaves every other register alone (10_state R33 to R35). -/

namespace Sys2Proof.Machine

theorem VReg.toBVec_fits (v : VReg) : v.toBVec.Fits :=
  ⟨Nat.le_of_lt_succ v.len.isLt, Nat.mod_lt _ (Nat.two_pow_pos _)⟩

/-- Every operand fits a vector register. -/
theorem State.vec_fits (s : State) (i : VIdx) : (s.vec i).Fits := (s.vreg i).toBVec_fits

@[simp] theorem VReg.len_ofBVec {a : BVec} (h : a.Fits) : (VReg.ofBVec a).len.val = a.len := by
  simp only [VReg.ofBVec]
  exact Nat.min_eq_left h.1

@[simp] theorem VReg.data_ofBVec {a : BVec} (h : a.Fits) : (VReg.ofBVec a).data.toNat = a.val := by
  simp only [VReg.ofBVec, BitVec.toNat_ofNat]
  exact Nat.mod_eq_of_lt (Nat.lt_of_lt_of_le h.2 (Nat.pow_le_pow_right (by omega) h.1))

@[simp] theorem VReg.toBVec_ofBVec {a : BVec} (h : a.Fits) : (VReg.ofBVec a).toBVec = a := by
  obtain ⟨l, v⟩ := a
  simp only [VReg.toBVec, VReg.len_ofBVec h, VReg.data_ofBVec h, Nat.mod_eq_of_lt h.2]

@[simp] theorem State.vreg_setVreg_same (s : State) (i : VIdx) (v : VReg) : (s.setVreg i v).vreg i = v := by
  simp [State.vreg, State.setVreg]

theorem State.vreg_setVreg_ne (s : State) {i j : VIdx} (v : VReg) (h : j ≠ i) :
    (s.setVreg i v).vreg j = s.vreg j := by
  simp only [State.vreg, State.setVreg, Fin.getElem_fin]
  exact Vector.getElem_set_ne _ _ fun e => h (Fin.ext e.symm)

@[simp] theorem State.vreg_setVec_same (s : State) (i : VIdx) (a : BVec) : (s.setVec i a).vreg i = VReg.ofBVec a :=
  s.vreg_setVreg_same i _

theorem State.vreg_setVec_ne (s : State) {i j : VIdx} (a : BVec) (h : j ≠ i) : (s.setVec i a).vreg j = s.vreg j :=
  s.vreg_setVreg_ne _ h

/-- A write reads back as written. -/
theorem State.vec_setVec_same (s : State) (i : VIdx) {a : BVec} (h : a.Fits) : (s.setVec i a).vec i = a := by
  simp [State.vec, VReg.toBVec_ofBVec h]

/-- A write leaves every other operand alone. -/
theorem State.vec_setVec_ne (s : State) {i j : VIdx} (a : BVec) (h : j ≠ i) : (s.setVec i a).vec j = s.vec j := by
  simp [State.vec, s.vreg_setVec_ne a h]

/-- Two states with equal vector registers have equal operands. -/
theorem State.vec_congr {s t : State} (h : t.vregs = s.vregs) (i : VIdx) : t.vec i = s.vec i := by
  simp [State.vec, State.vreg, h]

@[simp] theorem toNat_wordOf {x : Nat} (h : x < 2 ^ 32) : (wordOf x).toNat = x := by
  simp only [wordOf, BitVec.toNat_ofNat]
  exact Nat.mod_eq_of_lt h

end Sys2Proof.Machine
end

