-- ==== Sys2Proof/Laws/State.lean ====
section
/-! SUPPORT. One lemma per field per update of the state, each true by the definition of the update. -/

namespace Sys2Proof.Machine

@[simp] theorem State.ie_fail (s : State) (c : ErrCode) : (s.fail c).ie = s.ie := rfl
@[simp] theorem State.busy_fail (s : State) (c : ErrCode) : (s.fail c).busy = false := rfl
@[simp] theorem State.done_fail (s : State) (c : ErrCode) : (s.fail c).done = true := rfl
@[simp] theorem State.ovr_fail (s : State) (c : ErrCode) : (s.fail c).ovr = s.ovr := rfl
@[simp] theorem State.err_fail (s : State) (c : ErrCode) : (s.fail c).err = c := rfl
@[simp] theorem State.dstat_fail (s : State) (c : ErrCode) : (s.fail c).dstat = s.dstat := rfl
@[simp] theorem State.cmd_fail (s : State) (c : ErrCode) : (s.fail c).cmd = s.cmd := rfl
@[simp] theorem State.result_fail (s : State) (c : ErrCode) : (s.fail c).result = s.result := rfl
@[simp] theorem State.params_fail (s : State) (c : ErrCode) : (s.fail c).params = s.params := rfl
@[simp] theorem State.vregs_fail (s : State) (c : ErrCode) : (s.fail c).vregs = s.vregs := rfl
@[simp] theorem State.tables_fail (s : State) (c : ErrCode) : (s.fail c).tables = s.tables := rfl
@[simp] theorem State.schedule_fail (s : State) (c : ErrCode) : (s.fail c).schedule = s.schedule := rfl
@[simp] theorem State.lastResponse_fail (s : State) (c : ErrCode) : (s.fail c).lastResponse = s.lastResponse := rfl

@[simp] theorem State.ie_accept (s : State) (w : Word) : (s.accept w).ie = s.ie := rfl
@[simp] theorem State.busy_accept (s : State) (w : Word) : (s.accept w).busy = true := rfl
@[simp] theorem State.done_accept (s : State) (w : Word) : (s.accept w).done = false := rfl
@[simp] theorem State.ovr_accept (s : State) (w : Word) : (s.accept w).ovr = s.ovr := rfl
@[simp] theorem State.err_accept (s : State) (w : Word) : (s.accept w).err = .ok := rfl
@[simp] theorem State.dstat_accept (s : State) (w : Word) : (s.accept w).dstat = s.dstat := rfl
@[simp] theorem State.cmd_accept (s : State) (w : Word) : (s.accept w).cmd = w := rfl
@[simp] theorem State.result_accept (s : State) (w : Word) : (s.accept w).result = s.result := rfl
@[simp] theorem State.params_accept (s : State) (w : Word) : (s.accept w).params = s.params := rfl
@[simp] theorem State.vregs_accept (s : State) (w : Word) : (s.accept w).vregs = s.vregs := rfl
@[simp] theorem State.tables_accept (s : State) (w : Word) : (s.accept w).tables = s.tables := rfl
@[simp] theorem State.schedule_accept (s : State) (w : Word) : (s.accept w).schedule = s.schedule := rfl
@[simp] theorem State.lastResponse_accept (s : State) (w : Word) : (s.accept w).lastResponse = s.lastResponse := rfl

@[simp] theorem State.ie_setVreg (s : State) (i : VIdx) (v : VReg) : (s.setVreg i v).ie = s.ie := rfl
@[simp] theorem State.busy_setVreg (s : State) (i : VIdx) (v : VReg) : (s.setVreg i v).busy = s.busy := rfl
@[simp] theorem State.done_setVreg (s : State) (i : VIdx) (v : VReg) : (s.setVreg i v).done = s.done := rfl
@[simp] theorem State.ovr_setVreg (s : State) (i : VIdx) (v : VReg) : (s.setVreg i v).ovr = s.ovr := rfl
@[simp] theorem State.err_setVreg (s : State) (i : VIdx) (v : VReg) : (s.setVreg i v).err = s.err := rfl
@[simp] theorem State.dstat_setVreg (s : State) (i : VIdx) (v : VReg) : (s.setVreg i v).dstat = s.dstat := rfl
@[simp] theorem State.cmd_setVreg (s : State) (i : VIdx) (v : VReg) : (s.setVreg i v).cmd = s.cmd := rfl
@[simp] theorem State.result_setVreg (s : State) (i : VIdx) (v : VReg) : (s.setVreg i v).result = s.result := rfl
@[simp] theorem State.params_setVreg (s : State) (i : VIdx) (v : VReg) : (s.setVreg i v).params = s.params := rfl
@[simp] theorem State.vregs_setVreg (s : State) (i : VIdx) (v : VReg) : (s.setVreg i v).vregs = s.vregs.set i v := rfl
@[simp] theorem State.tables_setVreg (s : State) (i : VIdx) (v : VReg) : (s.setVreg i v).tables = s.tables := rfl
@[simp] theorem State.schedule_setVreg (s : State) (i : VIdx) (v : VReg) : (s.setVreg i v).schedule = s.schedule := rfl
@[simp] theorem State.lastResponse_setVreg (s : State) (i : VIdx) (v : VReg) : (s.setVreg i v).lastResponse = s.lastResponse := rfl

@[simp] theorem State.ie_setVec (s : State) (i : VIdx) (a : BVec) : (s.setVec i a).ie = s.ie := rfl
@[simp] theorem State.busy_setVec (s : State) (i : VIdx) (a : BVec) : (s.setVec i a).busy = s.busy := rfl
@[simp] theorem State.done_setVec (s : State) (i : VIdx) (a : BVec) : (s.setVec i a).done = s.done := rfl
@[simp] theorem State.ovr_setVec (s : State) (i : VIdx) (a : BVec) : (s.setVec i a).ovr = s.ovr := rfl
@[simp] theorem State.err_setVec (s : State) (i : VIdx) (a : BVec) : (s.setVec i a).err = s.err := rfl
@[simp] theorem State.dstat_setVec (s : State) (i : VIdx) (a : BVec) : (s.setVec i a).dstat = s.dstat := rfl
@[simp] theorem State.cmd_setVec (s : State) (i : VIdx) (a : BVec) : (s.setVec i a).cmd = s.cmd := rfl
@[simp] theorem State.result_setVec (s : State) (i : VIdx) (a : BVec) : (s.setVec i a).result = s.result := rfl
@[simp] theorem State.params_setVec (s : State) (i : VIdx) (a : BVec) : (s.setVec i a).params = s.params := rfl
@[simp] theorem State.vregs_setVec (s : State) (i : VIdx) (a : BVec) : (s.setVec i a).vregs = s.vregs.set i (VReg.ofBVec a) := rfl
@[simp] theorem State.tables_setVec (s : State) (i : VIdx) (a : BVec) : (s.setVec i a).tables = s.tables := rfl
@[simp] theorem State.schedule_setVec (s : State) (i : VIdx) (a : BVec) : (s.setVec i a).schedule = s.schedule := rfl
@[simp] theorem State.lastResponse_setVec (s : State) (i : VIdx) (a : BVec) : (s.setVec i a).lastResponse = s.lastResponse := rfl

@[simp] theorem State.ie_resetCore (s : State) : (s.resetCore).ie = false := rfl
@[simp] theorem State.busy_resetCore (s : State) : (s.resetCore).busy = false := rfl
@[simp] theorem State.done_resetCore (s : State) : (s.resetCore).done = false := rfl
@[simp] theorem State.ovr_resetCore (s : State) : (s.resetCore).ovr = false := rfl
@[simp] theorem State.err_resetCore (s : State) : (s.resetCore).err = .ok := rfl
@[simp] theorem State.dstat_resetCore (s : State) : (s.resetCore).dstat = .none := rfl
@[simp] theorem State.cmd_resetCore (s : State) : (s.resetCore).cmd = 0#32 := rfl
@[simp] theorem State.result_resetCore (s : State) : (s.resetCore).result = 0#32 := rfl
@[simp] theorem State.params_resetCore (s : State) : (s.resetCore).params = Params.noSession := rfl
@[simp] theorem State.vregs_resetCore (s : State) : (s.resetCore).vregs = Vector.replicate 8 VReg.empty := rfl
@[simp] theorem State.tables_resetCore (s : State) : (s.resetCore).tables = s.tables := rfl
@[simp] theorem State.schedule_resetCore (s : State) : (s.resetCore).schedule = s.schedule := rfl
@[simp] theorem State.lastResponse_resetCore (s : State) : (s.resetCore).lastResponse = s.lastResponse := rfl

@[simp] theorem State.ie_writeStatus (s : State) (v : Word) : (s.writeStatus v).ie = s.ie := rfl
@[simp] theorem State.busy_writeStatus (s : State) (v : Word) : (s.writeStatus v).busy = s.busy := rfl
@[simp] theorem State.done_writeStatus (s : State) (v : Word) : (s.writeStatus v).done = (s.done && !v.getLsbD 1) := rfl
@[simp] theorem State.ovr_writeStatus (s : State) (v : Word) : (s.writeStatus v).ovr = (s.ovr && !v.getLsbD 2) := rfl
@[simp] theorem State.err_writeStatus (s : State) (v : Word) : (s.writeStatus v).err = s.err := rfl
@[simp] theorem State.dstat_writeStatus (s : State) (v : Word) : (s.writeStatus v).dstat = s.dstat := rfl
@[simp] theorem State.cmd_writeStatus (s : State) (v : Word) : (s.writeStatus v).cmd = s.cmd := rfl
@[simp] theorem State.result_writeStatus (s : State) (v : Word) : (s.writeStatus v).result = s.result := rfl
@[simp] theorem State.params_writeStatus (s : State) (v : Word) : (s.writeStatus v).params = s.params := rfl
@[simp] theorem State.vregs_writeStatus (s : State) (v : Word) : (s.writeStatus v).vregs = s.vregs := rfl
@[simp] theorem State.tables_writeStatus (s : State) (v : Word) : (s.writeStatus v).tables = s.tables := rfl
@[simp] theorem State.schedule_writeStatus (s : State) (v : Word) : (s.writeStatus v).schedule = s.schedule := rfl
@[simp] theorem State.lastResponse_writeStatus (s : State) (v : Word) : (s.writeStatus v).lastResponse = s.lastResponse := rfl

@[simp] theorem State.ie_succeed (s : State) (w : Writes) : (s.succeed w).ie = s.ie := by
  obtain ⟨v, _, _, _⟩ := w
  cases v <;> rfl
@[simp] theorem State.busy_succeed (s : State) (w : Writes) : (s.succeed w).busy = false := rfl
@[simp] theorem State.done_succeed (s : State) (w : Writes) : (s.succeed w).done = true := rfl
@[simp] theorem State.ovr_succeed (s : State) (w : Writes) : (s.succeed w).ovr = s.ovr := by
  obtain ⟨v, _, _, _⟩ := w
  cases v <;> rfl
@[simp] theorem State.err_succeed (s : State) (w : Writes) : (s.succeed w).err = .ok := rfl
@[simp] theorem State.dstat_succeed (s : State) (w : Writes) : (s.succeed w).dstat = w.dstat.getD s.dstat := rfl
@[simp] theorem State.cmd_succeed (s : State) (w : Writes) : (s.succeed w).cmd = s.cmd := by
  obtain ⟨v, _, _, _⟩ := w
  cases v <;> rfl
@[simp] theorem State.result_succeed (s : State) (w : Writes) : (s.succeed w).result = wordOf w.result := rfl
@[simp] theorem State.params_succeed (s : State) (w : Writes) : (s.succeed w).params = w.params.getD s.params := rfl
@[simp] theorem State.vregs_succeed (s : State) (w : Writes) : (s.succeed w).vregs = (s.writeVec w.vec).vregs := rfl
@[simp] theorem State.tables_succeed (s : State) (w : Writes) : (s.succeed w).tables = s.tables := by
  obtain ⟨v, _, _, _⟩ := w
  cases v <;> rfl
@[simp] theorem State.schedule_succeed (s : State) (w : Writes) : (s.succeed w).schedule = s.schedule := by
  obtain ⟨v, _, _, _⟩ := w
  cases v <;> rfl
@[simp] theorem State.lastResponse_succeed (s : State) (w : Writes) : (s.succeed w).lastResponse = s.lastResponse := by
  obtain ⟨v, _, _, _⟩ := w
  cases v <;> rfl

@[simp] theorem State.ie_withInFlight (s : State) (w : Word) : (s.withInFlight w).ie = s.ie := rfl
@[simp] theorem State.busy_withInFlight (s : State) (w : Word) : (s.withInFlight w).busy = true := rfl
@[simp] theorem State.done_withInFlight (s : State) (w : Word) : (s.withInFlight w).done = false := rfl
@[simp] theorem State.ovr_withInFlight (s : State) (w : Word) : (s.withInFlight w).ovr = s.ovr := rfl
@[simp] theorem State.err_withInFlight (s : State) (w : Word) : (s.withInFlight w).err = .ok := rfl
@[simp] theorem State.dstat_withInFlight (s : State) (w : Word) : (s.withInFlight w).dstat = s.dstat := rfl
@[simp] theorem State.cmd_withInFlight (s : State) (w : Word) : (s.withInFlight w).cmd = w := rfl
@[simp] theorem State.result_withInFlight (s : State) (w : Word) : (s.withInFlight w).result = s.result := rfl
@[simp] theorem State.params_withInFlight (s : State) (w : Word) : (s.withInFlight w).params = s.params := rfl
@[simp] theorem State.vregs_withInFlight (s : State) (w : Word) : (s.withInFlight w).vregs = s.vregs := rfl
@[simp] theorem State.tables_withInFlight (s : State) (w : Word) : (s.withInFlight w).tables = s.tables := rfl
@[simp] theorem State.schedule_withInFlight (s : State) (w : Word) : (s.withInFlight w).schedule = .engine :: s.schedule := rfl
@[simp] theorem State.lastResponse_withInFlight (s : State) (w : Word) : (s.withInFlight w).lastResponse = s.lastResponse := rfl

@[simp] theorem State.ie_writeVec (s : State) (w : Option (VIdx × BVec)) : (s.writeVec w).ie = s.ie := by
  cases w <;> rfl
@[simp] theorem State.busy_writeVec (s : State) (w : Option (VIdx × BVec)) : (s.writeVec w).busy = s.busy := by
  cases w <;> rfl
@[simp] theorem State.done_writeVec (s : State) (w : Option (VIdx × BVec)) : (s.writeVec w).done = s.done := by
  cases w <;> rfl
@[simp] theorem State.ovr_writeVec (s : State) (w : Option (VIdx × BVec)) : (s.writeVec w).ovr = s.ovr := by
  cases w <;> rfl
@[simp] theorem State.err_writeVec (s : State) (w : Option (VIdx × BVec)) : (s.writeVec w).err = s.err := by
  cases w <;> rfl
@[simp] theorem State.dstat_writeVec (s : State) (w : Option (VIdx × BVec)) : (s.writeVec w).dstat = s.dstat := by
  cases w <;> rfl
@[simp] theorem State.cmd_writeVec (s : State) (w : Option (VIdx × BVec)) : (s.writeVec w).cmd = s.cmd := by
  cases w <;> rfl
@[simp] theorem State.result_writeVec (s : State) (w : Option (VIdx × BVec)) : (s.writeVec w).result = s.result := by
  cases w <;> rfl
@[simp] theorem State.params_writeVec (s : State) (w : Option (VIdx × BVec)) : (s.writeVec w).params = s.params := by
  cases w <;> rfl
@[simp] theorem State.tables_writeVec (s : State) (w : Option (VIdx × BVec)) : (s.writeVec w).tables = s.tables := by
  cases w <;> rfl
@[simp] theorem State.schedule_writeVec (s : State) (w : Option (VIdx × BVec)) : (s.writeVec w).schedule = s.schedule := by
  cases w <;> rfl
@[simp] theorem State.lastResponse_writeVec (s : State) (w : Option (VIdx × BVec)) : (s.writeVec w).lastResponse = s.lastResponse := by
  cases w <;> rfl
@[simp] theorem State.vregs_writeVec_none (s : State) : (s.writeVec none).vregs = s.vregs := rfl
@[simp] theorem State.vregs_writeVec_some (s : State) (i : VIdx) (a : BVec) :
    (s.writeVec (some (i, a))).vregs = s.vregs.set i (VReg.ofBVec a) := rfl

end Sys2Proof.Machine
end

