-- ==== Sys2Proof/Laws/Ops.lean ====
section
/-! SUPPORT. What completing a command can do, said once: every meaning completes with the effect of its rule, and the two
forms of completion write what 60_exceptions R254 and R255 say. -/

namespace Sys2Proof.Machine

/-- The effect of a command's rule, computed from the operands and the parameter registers before anything is written
(10_state R37, 60_exceptions R256). -/
def effectOf (i : Instr) (s : State) : Effect :=
  match i with
  | .xor rd ra rb => xorEffect rd (s.vec ra) (s.vec rb)
  | .mul rd ra rb => mulEffect rd (s.vec ra) (s.vec rb)
  | .mod rd ra rb => modEffect rd (s.vec ra) (s.vec rb)
  | .wgt ra => wgtEffect (s.vec ra)
  | .rotl rd ra => rotlEffect rd (s.vec ra)
  | .rotr rd ra => rotrEffect rd (s.vec ra)
  | .shlx rd ra r => shlxEffect rd (s.vec ra) r
  | .rslvH k => rslvHEffect k
  | .rslvBch k sReq => rslvBchEffect s.tables k sReq
  | .clrp => clrpEffect
  | .synCyc rd wmin => synCycEffect s.tables s.params rd wmin
  | .synBch rd => synBchEffect s.tables s.params rd
  | .encPoly rd ra rb => encPolyEffect s.params rd (s.vec ra) (s.vec rb)
  | .encMat rd ra => encMatEffect s.params rd (s.vec ra)
  | .info rd ra => infoEffect s.params rd (s.vec ra)
  | .decCyc rd ra rb t => decCycEffect rd (s.vec ra) (s.vec rb) t
  | .decMat rd ra => decMatEffect s.params rd (s.vec ra)
  | .synm rd ra => synmEffect s.params rd (s.vec ra)
  | .hrow rd row => hrowEffect s.params rd row
  | .hcol rd p => hcolEffect s.params rd p
  | .grow rd q => growEffect s.params rd q

/-- Every command completes, with the effect of its rule. -/
theorem exec_eq_complete (i : Instr) (s : State) : exec i s = .next (s.complete (effectOf i s)) := by
  cases i <;> rfl

/-- A command's effect depends on the vector registers, the parameter registers and the configuration alone
(10_state R37, R50, 00_scope R12). -/
theorem effectOf_congr (i : Instr) {s t : State} (hv : t.vregs = s.vregs) (hp : t.params = s.params)
    (ht : t.tables = s.tables) : effectOf i t = effectOf i s := by
  cases i <;> simp [effectOf, State.vec_congr hv, hp, ht]

@[simp] theorem State.complete_error (s : State) (c : ErrCode) : s.complete (.error c) = s.fail c := rfl
@[simp] theorem State.complete_ok (s : State) (w : Writes) : s.complete (.ok w) = s.succeed w := rfl

@[simp] theorem finish_error (c : ErrCode) (s : State) : finish (.error c) s = .next (s.fail c) := rfl
@[simp] theorem finish_ok (w : Writes) (s : State) : finish (.ok w) s = .next (s.succeed w) := rfl

/-- What a success with a vector result leaves (60_exceptions R255, 10_state R35). -/
theorem State.succeed_vec (s : State) (rd : VIdx) (a : BVec) (x : Nat) (p : Option Params) (d : Option DStat)
    (h : a.Fits) :
    (s.succeed ⟨some (rd, a), x, p, d⟩).vec rd = a ∧
      ((s.succeed ⟨some (rd, a), x, p, d⟩).vreg rd).len.val = a.len ∧
      ((s.succeed ⟨some (rd, a), x, p, d⟩).vreg rd).data.toNat = a.val ∧
      ∀ j, j ≠ rd → (s.succeed ⟨some (rd, a), x, p, d⟩).vreg j = s.vreg j := by
  have hr : ∀ j, (s.succeed ⟨some (rd, a), x, p, d⟩).vreg j = (s.setVec rd a).vreg j := fun _ => rfl
  refine ⟨?_, ?_, ?_, fun j hj => ?_⟩
  · simp [State.vec, hr, VReg.toBVec_ofBVec h]
  · simp [hr, VReg.len_ofBVec h]
  · simp [hr, VReg.data_ofBVec h]
  · rw [hr, s.vreg_setVec_ne a hj]

/-- The vector register a command names as its destination (10_state R37). -/
def destination : Instr → Option VIdx
  | .xor rd _ _ => some rd
  | .mul rd _ _ => some rd
  | .mod rd _ _ => some rd
  | .wgt _ => none
  | .rotl rd _ => some rd
  | .rotr rd _ => some rd
  | .shlx rd _ _ => some rd
  | .rslvH _ => none
  | .rslvBch _ _ => none
  | .clrp => none
  | .synCyc rd _ => some rd
  | .synBch rd => some rd
  | .encPoly rd _ _ => some rd
  | .encMat rd _ => some rd
  | .info rd _ => some rd
  | .decCyc rd _ _ _ => some rd
  | .decMat rd _ => some rd
  | .synm rd _ => some rd
  | .hrow rd _ => some rd
  | .hcol rd _ => some rd
  | .grow rd _ => some rd

/-- The shape of a success: the destination is the command's, the parameter registers are written by RSLV.H, RSLV.BCH,
CLRP and SYN.CYC alone, DSTAT by the two decoders alone (10_state R37, R39, R50). -/
theorem effectOf_ok_shape {i : Instr} {s : State} {w : Writes} (h : effectOf i s = .ok w) :
    w.vec.map Prod.fst = destination i ∧
      (w.params ≠ none → (∃ k, i = .rslvH k) ∨ (∃ k x, i = .rslvBch k x) ∨ i = .clrp ∨ ∃ rd m, i = .synCyc rd m) ∧
      (w.dstat ≠ none → (∃ rd ra rb t, i = .decCyc rd ra rb t) ∨ ∃ rd ra, i = .decMat rd ra) := by
  cases i <;>
    simp only [effectOf, xorEffect, mulEffect, modEffect, wgtEffect, rotlEffect, rotrEffect, shlxEffect, rslvHEffect,
      rslvBchEffect, clrpEffect, synCycEffect, synBchEffect, encPolyEffect, encMatEffect, infoEffect, decCycEffect,
      decMatEffect, synmEffect, hrowEffect, hcolEffect, growEffect, writesVec, writesDecoded, writesParams] at h <;>
    repeat' split at h <;> try (first | (cases h; done) | skip)
  all_goals cases h
  all_goals simp [destination]

/-- The errors of `multiply` (41 R122). -/
theorem multiply_error {a b : BVec} {c : ErrCode} (h : a.multiply b = .error c) :
    c = .invalidInput ∨ c = .capacityExceeded := by
  unfold BVec.multiply at h
  split at h
  · cases h; exact .inl rfl
  · split at h
    · cases h; exact .inr rfl
    · cases h

/-- The errors of the product of minimal polynomials (43 R174). -/
theorem minPolyProduct_error {cfg : Config.Tables} {h : Nat} {c : ErrCode} :
    ∀ {is : List Nat} {g : BVec}, minPolyProduct cfg h is g = .error c →
      c = .missingMinimalPolynomial ∨ c = .capacityExceeded ∨ c = .invalidInput := by
  intro is
  induction is with
  | nil => intro g e; cases e
  | cons i is ih =>
    intro g e
    unfold minPolyProduct at e
    split at e
    · cases e; exact .inl rfl
    · split at e
      · cases e; exact .inr (.inl rfl)
      · split at e
        · rename_i hm
          cases e
          rcases multiply_error hm with rfl | rfl
          · exact .inr (.inr rfl)
          · exact .inr (.inl rfl)
        · exact ih e

/-- The codes a command's rule raises: never OK, never a reserved code, and never IllegalCommand, which only a word
that is no command raises (60_exceptions R250, R251, R259). -/
theorem effectOf_error_code {i : Instr} {s : State} {c : ErrCode} (h : effectOf i s = .error c) :
    c ≠ .ok ∧ c ≠ .positionError ∧ c ≠ .exceedsCapability ∧ c ≠ .illegalCommand := by
  have key : c = .invalidInput ∨ c = .divisionByZero ∨ c = .noSuitableParameters ∨ c = .noGeneratorFound ∨
      c = .missingMinimalPolynomial ∨ c = .sessionError ∨ c = .capacityExceeded := by
    cases i <;>
      simp only [effectOf, xorEffect, mulEffect, modEffect, wgtEffect, rotlEffect, rotrEffect, shlxEffect, rslvHEffect,
        rslvBchEffect, clrpEffect, synCycEffect, synBchEffect, encPolyEffect, encMatEffect, infoEffect, decCycEffect,
        decMatEffect, synmEffect, hrowEffect, hcolEffect, growEffect, writesVec, writesDecoded, writesParams] at h
    case mul =>
      split at h
      · rename_i hm; cases h
        rcases multiply_error hm with rfl | rfl <;> simp
      · cases h
    case synBch =>
      split at h
      · cases h; simp
      · split at h
        · rename_i hm; cases h
          rcases minPolyProduct_error hm with rfl | rfl | rfl <;> simp
        · split at h <;> cases h
          simp
    all_goals repeat' split at h
    all_goals cases h
    all_goals simp
  rcases key with rfl | rfl | rfl | rfl | rfl | rfl | rfl <;> decide

end Sys2Proof.Machine
end

