-- ==== Sys2Proof/Laws/PerInstr.lean ====
section
/-! SUPPORT. Per command: the word the encoder writes carries its row's OP and is 0 at every other bit of the row's mask,
so it selects the row (30_encoding R94). -/

namespace Sys2Proof.Laws.EncodedWordSelectsRow

/-- OP and mask of the row of a command (30_encoding R95). -/
def opMask : Instr → Nat × Word
  | .xor _ _ _ => (0x01, 0xFFFF803F#32)
  | .mul _ _ _ => (0x02, 0xFFFF803F#32)
  | .mod _ _ _ => (0x03, 0xFFFF803F#32)
  | .wgt _ => (0x04, 0xFFFFF1FF#32)
  | .rotl _ _ => (0x05, 0xFFFFF03F#32)
  | .rotr _ _ => (0x06, 0xFFFFF03F#32)
  | .shlx _ _ _ => (0x07, 0xFF00F03F#32)
  | .rslvH _ => (0x10, 0xFF00FFFF#32)
  | .rslvBch _ _ => (0x11, 0x0000FFFF#32)
  | .clrp => (0x12, 0xFFFFFFFF#32)
  | .synCyc _ _ => (0x18, 0xFF00FE3F#32)
  | .synBch _ => (0x19, 0xFFFFFE3F#32)
  | .encPoly _ _ _ => (0x20, 0xFFFF803F#32)
  | .encMat _ _ => (0x21, 0xFFFFF03F#32)
  | .info _ _ => (0x22, 0xFFFFF03F#32)
  | .decCyc _ _ _ _ => (0x28, 0xFF00803F#32)
  | .decMat _ _ => (0x29, 0xFFFFF03F#32)
  | .synm _ _ => (0x30, 0xFFFFF03F#32)
  | .hrow _ _ => (0x31, 0xFF00FE3F#32)
  | .hcol _ _ => (0x32, 0xFF00FE3F#32)
  | .grow _ _ => (0x33, 0xFF00FE3F#32)

/-- The encoded word selects the command's row. -/
def Statement (i : Instr) : Prop := i.wf → encode i &&& (opMask i).2 = BitVec.ofNat 32 (opMask i).1

/-- Bit `j` of a word of format C, field by field. -/
theorem getLsbD_formatC {op rd ra rb imma immb : Nat} (h : FormatFits op rd ra rb imma immb) (j : Nat) :
    (formatC op rd ra rb imma immb).getLsbD j =
      if j < 6 then op.testBit j
      else if j < 9 then rd.testBit (j - 6)
      else if j < 12 then ra.testBit (j - 9)
      else if j < 15 then rb.testBit (j - 12)
      else if j < 16 then false
      else if j < 24 then imma.testBit (j - 16)
      else immb.testBit (j - 24) := by
  rw [← BitVec.testBit_toNat, toNat_formatC h]
  obtain ⟨h1, h2, h3, h4, h5, h6⟩ := h
  have e : op + rd * 2 ^ 6 + ra * 2 ^ 9 + rb * 2 ^ 12 + imma * 2 ^ 16 + immb * 2 ^ 24 =
      2 ^ 6 * (2 ^ 3 * (2 ^ 3 * (2 ^ 4 * (2 ^ 8 * immb + imma) + rb) + ra) + rd) + op := by ring
  rw [e, Nat.testBit_two_pow_mul_add _ h1, Nat.testBit_two_pow_mul_add _ h2, Nat.testBit_two_pow_mul_add _ h3,
    Nat.testBit_two_pow_mul_add _ (by omega : rb < 2 ^ 4), Nat.testBit_two_pow_mul_add _ h5]
  by_cases c1 : j < 6
  · simp [c1]
  by_cases c2 : j < 9
  · simp [c1, c2, show j - 6 < 3 by omega]
  by_cases c3 : j < 12
  · simp [c1, c2, c3, show ¬ j - 6 < 3 by omega, show j - 6 - 3 = j - 9 by omega, show j - 9 < 3 by omega]
  by_cases c4 : j < 15
  · simp [c1, c2, c3, c4, show ¬ j - 6 < 3 by omega, show ¬ j - 6 - 3 < 3 by omega,
      show j - 6 - 3 - 3 = j - 12 by omega, show j - 12 < 4 by omega]
  by_cases c5 : j < 16
  · have : rb.testBit (j - 12) = false := by
      rw [show j - 12 = 3 by omega]
      exact Nat.testBit_lt_two_pow h4
    simp [c1, c2, c3, c4, c5, show ¬ j - 6 < 3 by omega, show ¬ j - 6 - 3 < 3 by omega,
      show j - 6 - 3 - 3 = j - 12 by omega, show j - 12 < 4 by omega, this]
  by_cases c6 : j < 24
  · simp [c1, c2, c3, c4, c5, c6, show ¬ j - 6 < 3 by omega, show ¬ j - 6 - 3 < 3 by omega,
      show j - 6 - 3 - 3 = j - 12 by omega, show ¬ j - 12 < 4 by omega, show j - 12 - 4 = j - 16 by omega,
      show j - 16 < 8 by omega]
  · simp [c1, c2, c3, c4, c5, c6, show ¬ j - 6 < 3 by omega, show ¬ j - 6 - 3 < 3 by omega,
      show j - 6 - 3 - 3 = j - 12 by omega, show ¬ j - 12 < 4 by omega, show j - 12 - 4 = j - 16 by omega,
      show ¬ j - 16 < 8 by omega, show j - 16 - 8 = j - 24 by omega]

/-- A word of format C under a mask is its OP when every field the mask covers is 0. -/
theorem masked {op rd ra rb imma immb : Nat} {mask : Word} (h : FormatFits op rd ra rb imma immb)
    (hop : ∀ j < 6, mask.getLsbD j = true) (hrd : rd = 0 ∨ ∀ j < 9, 6 ≤ j → mask.getLsbD j = false)
    (hra : ra = 0 ∨ ∀ j < 12, 9 ≤ j → mask.getLsbD j = false)
    (hrb : rb = 0 ∨ ∀ j < 15, 12 ≤ j → mask.getLsbD j = false)
    (hia : imma = 0 ∨ ∀ j < 24, 16 ≤ j → mask.getLsbD j = false)
    (hib : immb = 0 ∨ ∀ j < 32, 24 ≤ j → mask.getLsbD j = false) :
    formatC op rd ra rb imma immb &&& mask = BitVec.ofNat 32 op := by
  apply BitVec.eq_of_getLsbD_eq
  intro j hj
  rw [BitVec.getLsbD_and, getLsbD_formatC h, BitVec.getLsbD_ofNat]
  have hhigh : ¬ j < 6 → op.testBit j = false := fun hn =>
    Nat.testBit_lt_two_pow (Nat.lt_of_lt_of_le h.op_lt (Nat.pow_le_pow_right (by omega) (by omega)))
  have hzero : ∀ {x n : Nat}, x = 0 ∨ mask.getLsbD j = false → (x.testBit n && mask.getLsbD j) = false := by
    rintro x n (rfl | hm)
    · simp
    · simp [hm]
  by_cases c1 : j < 6
  · simp [c1, hop j c1, hj]
  rw [hhigh c1]
  simp only [c1, if_false, Bool.and_false]
  by_cases c2 : j < 9
  · simp only [c2, if_true]; exact hzero (hrd.imp id fun f => f j c2 (by omega))
  by_cases c3 : j < 12
  · simp only [c2, c3, if_true, if_false]; exact hzero (hra.imp id fun f => f j c3 (by omega))
  by_cases c4 : j < 15
  · simp only [c2, c3, c4, if_true, if_false]; exact hzero (hrb.imp id fun f => f j c4 (by omega))
  by_cases c5 : j < 16
  · simp [c2, c3, c4, c5]
  by_cases c6 : j < 24
  · simp only [c2, c3, c4, c5, c6, if_true, if_false]; exact hzero (hia.imp id fun f => f j c6 (by omega))
  · simp only [c2, c3, c4, c5, c6, if_false]; exact hzero (hib.imp id fun f => f j hj (by omega))

/-- A three-register command's word fits the format. -/
theorem fits {op : Nat} (hop : op < 2 ^ 6) (rd ra rb : VIdx) {imma immb : Nat} (ha : imma < 256) (hb : immb < 256) :
    FormatFits op rd ra rb imma immb := ⟨hop, rd.isLt, ra.isLt, rb.isLt, ha, hb⟩

theorem xor (rd ra rb : VIdx) : Statement (.xor rd ra rb) := fun _ =>
  masked (mask := 0xFFFF803F#32) (fits (by decide) rd ra rb (by decide) (by decide)) (by decide) (.inr (by decide)) (.inr (by decide))
    (.inr (by decide)) (.inl rfl) (.inl rfl)

theorem mul (rd ra rb : VIdx) : Statement (.mul rd ra rb) := fun _ =>
  masked (mask := 0xFFFF803F#32) (fits (by decide) rd ra rb (by decide) (by decide)) (by decide) (.inr (by decide)) (.inr (by decide))
    (.inr (by decide)) (.inl rfl) (.inl rfl)

theorem mod (rd ra rb : VIdx) : Statement (.mod rd ra rb) := fun _ =>
  masked (mask := 0xFFFF803F#32) (fits (by decide) rd ra rb (by decide) (by decide)) (by decide) (.inr (by decide)) (.inr (by decide))
    (.inr (by decide)) (.inl rfl) (.inl rfl)

theorem wgt (ra : VIdx) : Statement (.wgt ra) := fun _ =>
  masked (mask := 0xFFFFF1FF#32) (fits (by decide) 0 ra 0 (by decide) (by decide)) (by decide) (.inl rfl) (.inr (by decide)) (.inl rfl)
    (.inl rfl) (.inl rfl)

theorem rotl (rd ra : VIdx) : Statement (.rotl rd ra) := fun _ =>
  masked (mask := 0xFFFFF03F#32) (fits (by decide) rd ra 0 (by decide) (by decide)) (by decide) (.inr (by decide)) (.inr (by decide))
    (.inl rfl) (.inl rfl) (.inl rfl)

theorem rotr (rd ra : VIdx) : Statement (.rotr rd ra) := fun _ =>
  masked (mask := 0xFFFFF03F#32) (fits (by decide) rd ra 0 (by decide) (by decide)) (by decide) (.inr (by decide)) (.inr (by decide))
    (.inl rfl) (.inl rfl) (.inl rfl)

theorem shlx (rd ra : VIdx) (r : Nat) : Statement (.shlx rd ra r) := fun h =>
  masked (mask := 0xFF00F03F#32) (fits (by decide) rd ra 0 h (by decide)) (by decide) (.inr (by decide)) (.inr (by decide)) (.inl rfl)
    (.inr (by decide)) (.inl rfl)

theorem rslvH (k : Nat) : Statement (.rslvH k) := fun h =>
  masked (mask := 0xFF00FFFF#32) (fits (by decide) 0 0 0 h (by decide)) (by decide) (.inl rfl) (.inl rfl) (.inl rfl) (.inr (by decide))
    (.inl rfl)

theorem rslvBch (k s : Nat) : Statement (.rslvBch k s) := fun h =>
  masked (mask := 0x0000FFFF#32) (fits (by decide) 0 0 0 h.1 h.2) (by decide) (.inl rfl) (.inl rfl) (.inl rfl) (.inr (by decide))
    (.inr (by decide))

theorem clrp : Statement .clrp := fun _ =>
  masked (mask := 0xFFFFFFFF#32) (fits (by decide) 0 0 0 (by decide) (by decide)) (by decide) (.inl rfl) (.inl rfl) (.inl rfl) (.inl rfl)
    (.inl rfl)

theorem synCyc (rd : VIdx) (wmin : Nat) : Statement (.synCyc rd wmin) := fun h =>
  masked (mask := 0xFF00FE3F#32) (fits (by decide) rd 0 0 h (by decide)) (by decide) (.inr (by decide)) (.inl rfl) (.inl rfl)
    (.inr (by decide)) (.inl rfl)

theorem synBch (rd : VIdx) : Statement (.synBch rd) := fun _ =>
  masked (mask := 0xFFFFFE3F#32) (fits (by decide) rd 0 0 (by decide) (by decide)) (by decide) (.inr (by decide)) (.inl rfl) (.inl rfl)
    (.inl rfl) (.inl rfl)

theorem encPoly (rd ra rb : VIdx) : Statement (.encPoly rd ra rb) := fun _ =>
  masked (mask := 0xFFFF803F#32) (fits (by decide) rd ra rb (by decide) (by decide)) (by decide) (.inr (by decide)) (.inr (by decide))
    (.inr (by decide)) (.inl rfl) (.inl rfl)

theorem encMat (rd ra : VIdx) : Statement (.encMat rd ra) := fun _ =>
  masked (mask := 0xFFFFF03F#32) (fits (by decide) rd ra 0 (by decide) (by decide)) (by decide) (.inr (by decide)) (.inr (by decide))
    (.inl rfl) (.inl rfl) (.inl rfl)

theorem info (rd ra : VIdx) : Statement (.info rd ra) := fun _ =>
  masked (mask := 0xFFFFF03F#32) (fits (by decide) rd ra 0 (by decide) (by decide)) (by decide) (.inr (by decide)) (.inr (by decide))
    (.inl rfl) (.inl rfl) (.inl rfl)

theorem decCyc (rd ra rb : VIdx) (t : Nat) : Statement (.decCyc rd ra rb t) := fun h =>
  masked (mask := 0xFF00803F#32) (fits (by decide) rd ra rb h (by decide)) (by decide) (.inr (by decide)) (.inr (by decide))
    (.inr (by decide)) (.inr (by decide)) (.inl rfl)

theorem decMat (rd ra : VIdx) : Statement (.decMat rd ra) := fun _ =>
  masked (mask := 0xFFFFF03F#32) (fits (by decide) rd ra 0 (by decide) (by decide)) (by decide) (.inr (by decide)) (.inr (by decide))
    (.inl rfl) (.inl rfl) (.inl rfl)

theorem synm (rd ra : VIdx) : Statement (.synm rd ra) := fun _ =>
  masked (mask := 0xFFFFF03F#32) (fits (by decide) rd ra 0 (by decide) (by decide)) (by decide) (.inr (by decide)) (.inr (by decide))
    (.inl rfl) (.inl rfl) (.inl rfl)

theorem hrow (rd : VIdx) (i : Nat) : Statement (.hrow rd i) := fun h =>
  masked (mask := 0xFF00FE3F#32) (fits (by decide) rd 0 0 h (by decide)) (by decide) (.inr (by decide)) (.inl rfl) (.inl rfl)
    (.inr (by decide)) (.inl rfl)

theorem hcol (rd : VIdx) (p : Nat) : Statement (.hcol rd p) := fun h =>
  masked (mask := 0xFF00FE3F#32) (fits (by decide) rd 0 0 h (by decide)) (by decide) (.inr (by decide)) (.inl rfl) (.inl rfl)
    (.inr (by decide)) (.inl rfl)

theorem grow (rd : VIdx) (q : Nat) : Statement (.grow rd q) := fun h =>
  masked (mask := 0xFF00FE3F#32) (fits (by decide) rd 0 0 h (by decide)) (by decide) (.inr (by decide)) (.inl rfl) (.inl rfl)
    (.inr (by decide)) (.inl rfl)

end Sys2Proof.Laws.EncodedWordSelectsRow
end

