-- ==== Sys2Proof/Laws/Step.lean ====
section
/-! SUPPORT. What a host write and a step can do, said once: every later fact about a step is read off these cases. -/

namespace Sys2Proof.Machine

/-- What a host write of a register can do (20_memory R71, R76, 10_state R31 to R50, 70_reset_and_hazards R284). -/
theorem writeReg_cases (s : State) (r : Reg) (v : Word) :
    (s.writeReg r v = s ∧ r ≠ .ctrl ∧ r ≠ .status) ∨
    (r = .ctrl ∧ v.getLsbD 1 = true ∧ s.writeReg r v = s.resetCore) ∨
    (r = .ctrl ∧ v.getLsbD 1 = false ∧ s.writeReg r v = { s with ie := v.getLsbD 0 }) ∨
    (r = .status ∧ s.writeReg r v = s.writeStatus v) ∨
    (s.busy = true ∧ s.writeReg r v = { s with ovr := true }) ∨
    (r = .cmd ∧ s.busy = false ∧ s.writeReg r v = s.accept v) ∨
    (s.busy = false ∧ ∃ i w, (r = .vlen i ∨ r = .vdlo i ∨ r = .vdhi i) ∧ s.writeReg r v = s.setVreg i w) := by
  have locked : ∀ f : State → State, (s.busy = true ∧ s.interlocked f = { s with ovr := true }) ∨
      (s.busy = false ∧ s.interlocked f = f s) := by
    intro f
    unfold State.interlocked
    cases s.busy <;> simp
  cases r with
  | ctrl =>
    show _ ∨ (_ ∧ _ ∧ s.writeCtrl v = _) ∨ (_ ∧ _ ∧ s.writeCtrl v = _) ∨ _
    unfold State.writeCtrl
    cases hv : v.getLsbD 1
    · exact .inr (.inr (.inl ⟨rfl, rfl, if_neg (by simp)⟩))
    · exact .inr (.inl ⟨rfl, rfl, if_pos rfl⟩)
  | status => exact .inr (.inr (.inr (.inl ⟨rfl, rfl⟩)))
  | cmd =>
    rcases locked fun s => s.accept v with ⟨hb, e⟩ | ⟨hb, e⟩
    · exact .inr (.inr (.inr (.inr (.inl ⟨hb, e⟩))))
    · exact .inr (.inr (.inr (.inr (.inr (.inl ⟨rfl, hb, e⟩)))))
  | vlen i =>
    rcases locked fun s => s.setVreg i ((s.vreg i).setLen v) with ⟨hb, e⟩ | ⟨hb, e⟩
    · exact .inr (.inr (.inr (.inr (.inl ⟨hb, e⟩))))
    · exact .inr (.inr (.inr (.inr (.inr (.inr ⟨hb, i, _, .inl rfl, e⟩)))))
  | vdlo i =>
    rcases locked fun s => s.setVreg i ((s.vreg i).setLow v) with ⟨hb, e⟩ | ⟨hb, e⟩
    · exact .inr (.inr (.inr (.inr (.inl ⟨hb, e⟩))))
    · exact .inr (.inr (.inr (.inr (.inr (.inr ⟨hb, i, _, .inr (.inl rfl), e⟩)))))
  | vdhi i =>
    rcases locked fun s => s.setVreg i ((s.vreg i).setHigh v) with ⟨hb, e⟩ | ⟨hb, e⟩
    · exact .inr (.inr (.inr (.inr (.inl ⟨hb, e⟩))))
    · exact .inr (.inr (.inr (.inr (.inr (.inr ⟨hb, i, _, .inr (.inr rfl), e⟩)))))
  | id => exact .inl ⟨rfl, by simp, by simp⟩
  | result => exact .inl ⟨rfl, by simp, by simp⟩
  | pk => exact .inl ⟨rfl, by simp, by simp⟩
  | pr => exact .inl ⟨rfl, by simp, by simp⟩
  | pn => exact .inl ⟨rfl, by simp, by simp⟩
  | ps => exact .inl ⟨rfl, by simp, by simp⟩
  | ph => exact .inl ⟨rfl, by simp, by simp⟩
  | pkreq => exact .inl ⟨rfl, by simp, by simp⟩
  | pmode => exact .inl ⟨rfl, by simp, by simp⟩
  | reserved => exact .inl ⟨rfl, by simp, by simp⟩

/-- A state without its oldest scheduled turn. -/
def State.popped (s : State) : State := { s with schedule := s.schedule.tail }

/-- The engine moves next: its turn is the oldest, or nothing is scheduled. -/
abbrev State.engineNext (s : State) : Prop := s.schedule = [] ∨ ∃ rest, s.schedule = .engine :: rest

/-- The effect with which the word in flight completes. -/
def inFlightEffect (s : State) : Effect :=
  match decode s.cmd with
  | .ok i => effectOf i s
  | .error _ => .error .illegalCommand

theorem completeInFlight_eq (s : State) : completeInFlight s = .next (s.complete (inFlightEffect s)) := by
  unfold completeInFlight inFlightEffect State.inFlightWord
  cases decode s.cmd with
  | ok i => exact exec_eq_complete _ _
  | error e => rfl

theorem engineTurn_busy {s : State} (h : s.busy = true) :
    engineTurn s = .next (s.complete (inFlightEffect s)) := by
  simp [engineTurn, h, completeInFlight_eq]

theorem engineTurn_idle {s : State} (h : s.busy = false) : engineTurn s = .next s := by
  simp [engineTurn, h]

/-- When the engine moves next, a step is its turn. -/
theorem step_engine {s : State} (h : s.engineNext) : step s = engineTurn s.popped := by
  rcases h with h | ⟨rest, h⟩
  · have : s.popped = s := by
      obtain ⟨⟩ := s
      cases h; rfl
    rw [this]
    simp only [step, takeTurn, h]
  · simp [step, takeTurn, turn, State.popped, h]

/-- When another turn is the oldest, a step is that turn. -/
theorem step_turn {s : State} {t : Turn} {rest : List Turn} (h : s.schedule = t :: rest) :
    step s = turn t s.popped := by
  simp [step, takeTurn, State.popped, h]

/-- All that a step which answers a next state can be. -/
theorem step_cases {s t : State} (h : step s = .next t) :
    (s.engineNext ∧ s.busy = false ∧ t = s.popped) ∨
    (s.engineNext ∧ s.busy = true ∧ t = s.popped.complete (inFlightEffect s.popped)) ∨
    (∃ off size r, s.schedule.head? = some (.busRead off size) ∧ off < Config.windowBytes ∧
      t = { s.popped with lastResponse := r }) ∨
    (∃ off size v, s.schedule.head? = some (.busWrite off size v) ∧ off < Config.windowBytes ∧
      accepted off size = true ∧ t = { s.popped.writeReg (regAt off) v with lastResponse := .writeDone }) ∨
    (∃ off size v, s.schedule.head? = some (.busWrite off size v) ∧ off < Config.windowBytes ∧
      accepted off size = false ∧ t = { s.popped with lastResponse := .writeError }) ∨
    (s.schedule.head? = some .hardReset ∧ t = s.popped.resetCore) := by
  have engine : s.engineNext → (s.busy = false ∧ t = s.popped) ∨
      (s.busy = true ∧ t = s.popped.complete (inFlightEffect s.popped)) := by
    intro he
    rw [step_engine he] at h
    cases hb : s.busy
    · rw [engineTurn_idle (s := s.popped) hb] at h
      cases h; exact .inl ⟨rfl, rfl⟩
    · rw [engineTurn_busy (s := s.popped) hb] at h
      cases h; exact .inr ⟨rfl, rfl⟩
  cases hs : s.schedule with
  | nil =>
    rcases engine (.inl hs) with ⟨a, b⟩ | ⟨a, b⟩
    · exact .inl ⟨.inl hs, a, b⟩
    · exact .inr (.inl ⟨.inl hs, a, b⟩)
  | cons u rest =>
    rw [step_turn hs] at h
    cases u with
    | engine =>
      rcases engine (.inr ⟨rest, hs⟩) with ⟨a, b⟩ | ⟨a, b⟩
      · exact .inl ⟨.inr ⟨rest, hs⟩, a, b⟩
      · exact .inr (.inl ⟨.inr ⟨rest, hs⟩, a, b⟩)
    | hardReset =>
      cases h
      exact .inr (.inr (.inr (.inr (.inr ⟨rfl, rfl⟩))))
    | busRead off size =>
      simp only [turn, busRead] at h
      split at h
      · cases h
      · rename_i hoff
        refine .inr (.inr (.inl ?_))
        split at h <;> cases h
        · exact ⟨off, size, _, rfl, by omega, rfl⟩
        · exact ⟨off, size, _, rfl, by omega, rfl⟩
    | busWrite off size v =>
      simp only [turn, busWrite] at h
      split at h
      · cases h
      · rename_i hoff
        split at h <;> rename_i ha <;> cases h
        · exact .inr (.inr (.inr (.inl ⟨off, size, v, rfl, by omega, ha, rfl⟩)))
        · exact .inr (.inr (.inr (.inr (.inl ⟨off, size, v, rfl, by omega, by simpa using ha, rfl⟩))))

/-- A step faults only on a host access outside the window, and is never refused (log 4). -/
theorem step_fault {s : State} {f : Fault} (h : step s = .fault f) :
    ∃ off, f = .outsideWindow off ∧ Config.windowBytes ≤ off ∧
      ((∃ size, s.schedule.head? = some (.busRead off size)) ∨
        ∃ size v, s.schedule.head? = some (.busWrite off size v)) := by
  have engine : s.engineNext → False := by
    intro he
    rw [step_engine he] at h
    cases hb : s.popped.busy
    · rw [engineTurn_idle hb] at h; cases h
    · rw [engineTurn_busy hb] at h; cases h
  cases hs : s.schedule with
  | nil => exact (engine (.inl hs)).elim
  | cons u rest =>
    rw [step_turn hs] at h
    cases u with
    | engine => exact (engine (.inr ⟨rest, hs⟩)).elim
    | hardReset => cases h
    | busRead off size =>
      simp only [turn, busRead] at h
      split at h
      · rename_i hoff; cases h
        exact ⟨off, rfl, hoff, .inl ⟨size, rfl⟩⟩
      · split at h <;> cases h
    | busWrite off size v =>
      simp only [turn, busWrite] at h
      split at h
      · rename_i hoff; cases h
        exact ⟨off, rfl, hoff, .inr ⟨size, v, rfl⟩⟩
      · split at h <;> cases h

/-- No step is refused: every command has its meaning. -/
theorem step_not_refused {s : State} {r : Refusal} : step s ≠ .refused r := by
  intro h
  have engine : s.engineNext → False := by
    intro he
    rw [step_engine he] at h
    cases hb : s.popped.busy
    · rw [engineTurn_idle hb] at h; cases h
    · rw [engineTurn_busy hb] at h; cases h
  cases hs : s.schedule with
  | nil => exact engine (.inl hs)
  | cons u rest =>
    rw [step_turn hs] at h
    cases u with
    | engine => exact engine (.inr ⟨rest, hs⟩)
    | hardReset => cases h
    | busRead off size =>
      simp only [turn, busRead] at h
      split at h
      · cases h
      · split at h <;> cases h
    | busWrite off size v =>
      simp only [turn, busWrite] at h
      split at h
      · cases h
      · split at h <;> cases h

/-- A command word placed by the host for the next step completes with its rule's effect. -/
theorem step_withFetchWord (s : State) (nbits w : Nat) :
    step (s.withFetchWord nbits w) =
      .next ((s.accept (tableWord nbits w)).complete (inFlightEffect (s.accept (tableWord nbits w)))) := by
  have hp : (s.withFetchWord nbits w).popped = s.accept (tableWord nbits w) := rfl
  rw [step_engine (.inr ⟨s.schedule, rfl⟩), hp, engineTurn_busy rfl]

end Sys2Proof.Machine
end

