-- ==== Sys2Proof/Machine/HostMacros.lean ====
section
/-! DEFINITION. The host's side of the interface: the assembler text of a command, and the pseudo-instructions
and macros as the commands and bus accesses they stand for (30_encoding R100, R101). -/

namespace Sys2Proof.Machine

/-- A vector register in assembler text: `v0` to `v7` (30_encoding R100). -/
def vecName (i : VIdx) : String := "v" ++ toString i.val

/-- The assembler text of a command, immediates in decimal (30_encoding R100). -/
def asmText : Instr → String
  | .xor rd ra rb => "xor " ++ vecName rd ++ ", " ++ vecName ra ++ ", " ++ vecName rb
  | .mul rd ra rb => "mul " ++ vecName rd ++ ", " ++ vecName ra ++ ", " ++ vecName rb
  | .mod rd ra rb => "mod " ++ vecName rd ++ ", " ++ vecName ra ++ ", " ++ vecName rb
  | .wgt ra => "wgt " ++ vecName ra
  | .rotl rd ra => "rotl " ++ vecName rd ++ ", " ++ vecName ra
  | .rotr rd ra => "rotr " ++ vecName rd ++ ", " ++ vecName ra
  | .shlx rd ra r => "shlx " ++ vecName rd ++ ", " ++ vecName ra ++ ", " ++ toString r
  | .rslvH k => "rslv.h " ++ toString k
  | .rslvBch k s => "rslv.bch " ++ toString k ++ ", " ++ toString s
  | .clrp => "clrp"
  | .synCyc rd wmin => "syn.cyc " ++ vecName rd ++ ", " ++ toString wmin
  | .synBch rd => "syn.bch " ++ vecName rd
  | .encPoly rd ra rb => "enc.poly " ++ vecName rd ++ ", " ++ vecName ra ++ ", " ++ vecName rb
  | .encMat rd ra => "enc.mat " ++ vecName rd ++ ", " ++ vecName ra
  | .info rd ra => "info " ++ vecName rd ++ ", " ++ vecName ra
  | .decCyc rd ra rb t =>
    "dec.cyc " ++ vecName rd ++ ", " ++ vecName ra ++ ", " ++ vecName rb ++ ", " ++ toString t
  | .decMat rd ra => "dec.mat " ++ vecName rd ++ ", " ++ vecName ra
  | .synm rd ra => "synm " ++ vecName rd ++ ", " ++ vecName ra
  | .hrow rd i => "hrow " ++ vecName rd ++ ", " ++ toString i
  | .hcol rd p => "hcol " ++ vecName rd ++ ", " ++ toString p
  | .grow rd q => "grow " ++ vecName rd ++ ", " ++ toString q

/-- `syn.cyc vd`: the document's plain-cyclic weight bound, 3 (30_encoding R101). -/
def pseudoSynCyc (rd : VIdx) : Instr := .synCyc rd 3

/-- `mov vd, va` (30_encoding R101). -/
def pseudoMov (rd ra : VIdx) : Instr := .shlx rd ra 0

/-- `flip vd, va, vm` (30_encoding R101). -/
def pseudoFlip (rd ra rm : VIdx) : Instr := .xor rd ra rm

/-- The byte offset of the first word of vector register `i` (20_memory R71). -/
def vecOffset (i : VIdx) : Nat := 0x100 + 0x10 * i.val

/-- The BitVector a string of 0s and 1s spells, element 0 first (00_scope R14). A character other than `1` is
read as 0; refusing it is host software's (00_scope R6; DESIGN CHOICE, log 20). -/
def bitsOf (text : String) : BVec :=
  ⟨text.length, text.toList.foldl (fun v c => v * 2 + (c == '1').toNat) 0⟩

/-- `li.v vN, "…"`: three bus writes (30_encoding R101). -/
def liV (i : VIdx) (a : BVec) : List Turn :=
  [.busWrite (vecOffset i) 32 (wordOf a.len),
   .busWrite (vecOffset i + 4) 32 (dataLow (BitVec.ofNat 64 a.val)),
   .busWrite (vecOffset i + 8) 32 (dataHigh (BitVec.ofNat 64 a.val))]

/-- `rd.v vN`: three bus reads (30_encoding R101). -/
def rdV (i : VIdx) : List Turn :=
  [.busRead (vecOffset i) 32, .busRead (vecOffset i + 4) 32, .busRead (vecOffset i + 8) 32]

/-- `wait`, when `polls` reads of STATUS come before the completion and one after it (30_encoding R101;
log 20). -/
def waitPolls (polls : Nat) : List Turn :=
  List.replicate polls (.busRead 0x008 32) ++ [.engine, .busRead 0x008 32]

/-- `ack`: clears DONE and OVR (30_encoding R101). -/
def ack : List Turn := [.busWrite 0x008 32 0x00000006#32]

/-- Any command: a write of its word to CMD, then `wait` (30_encoding R101). -/
def issue (i : Instr) (polls : Nat) : List Turn := .busWrite 0x00C 32 (encode i) :: waitPolls polls

end Sys2Proof.Machine
end

