-- ==== Sys2Proof/Tests/Slice0.lean ====
section
/-! SUPPORT. The model's own tests: refusals of the checks, decoding of words written out from the spec, one-step results
taken from spec/95_test_vectors.md, and a witness for the hypotheses of every statement. -/

namespace Sys2Proof.Tests

open Sys2Proof Sys2Proof.Machine

/-! ### Well-formedness: an immediate past its field is refused (30_encoding R93, R100) -/

theorem test_wf_refuses_shlx : ¬ Instr.wf (.shlx 0 1 256) := by decide
theorem test_wf_refuses_rslvH : ¬ Instr.wf (.rslvH 256) := by decide
theorem test_wf_refuses_rslvBch_k : ¬ Instr.wf (.rslvBch 256 1) := by decide
theorem test_wf_refuses_rslvBch_s : ¬ Instr.wf (.rslvBch 4 256) := by decide
theorem test_wf_refuses_synCyc : ¬ Instr.wf (.synCyc 1 256) := by decide
theorem test_wf_refuses_decCyc : ¬ Instr.wf (.decCyc 2 0 1 256) := by decide
theorem test_wf_refuses_hrow : ¬ Instr.wf (.hrow 1 256) := by decide
theorem test_wf_refuses_hcol : ¬ Instr.wf (.hcol 1 256) := by decide
theorem test_wf_refuses_grow : ¬ Instr.wf (.grow 1 256) := by decide
theorem test_wf_admits_largest_immediates : Instr.wf (.rslvBch 255 255) ∧ Instr.wf (.decCyc 7 7 7 255) := by decide

/-! ### Decoding: words written out field by field, IMMB IMMA Z RB RA RD OP (30_encoding R91, R95) -/

theorem test_decode_xor :
    decode 0b00000000_00000000_0_010_001_011_000001#32 = .ok (.xor 3 1 2) := by decide
theorem test_decode_mul :
    decode 0b00000000_00000000_0_110_101_100_000010#32 = .ok (.mul 4 5 6) := by decide
theorem test_decode_mod :
    decode 0b00000000_00000000_0_001_000_111_000011#32 = .ok (.mod 7 0 1) := by decide
theorem test_decode_wgt :
    decode 0b00000000_00000000_0_000_110_000_000100#32 = .ok (.wgt 6) := by decide
theorem test_decode_rotl :
    decode 0b00000000_00000000_0_000_011_010_000101#32 = .ok (.rotl 2 3) := by decide
theorem test_decode_rotr :
    decode 0b00000000_00000000_0_000_001_101_000110#32 = .ok (.rotr 5 1) := by decide
theorem test_decode_shlx :
    decode 0b00000000_00000011_0_000_000_010_000111#32 = .ok (.shlx 2 0 3) := by decide
theorem test_decode_rslvH :
    decode 0b00000000_00000100_0_000_000_000_010000#32 = .ok (.rslvH 4) := by decide
theorem test_decode_rslvBch :
    decode 0b00000001_00000100_0_000_000_000_010001#32 = .ok (.rslvBch 4 1) := by decide
theorem test_decode_clrp :
    decode 0b00000000_00000000_0_000_000_000_010010#32 = .ok (.clrp) := by decide
theorem test_decode_synCyc :
    decode 0b00000000_00000011_0_000_000_001_011000#32 = .ok (.synCyc 1 3) := by decide
theorem test_decode_synBch :
    decode 0b00000000_00000000_0_000_000_110_011001#32 = .ok (.synBch 6) := by decide
theorem test_decode_encPoly :
    decode 0b00000000_00000000_0_001_000_010_100000#32 = .ok (.encPoly 2 0 1) := by decide
theorem test_decode_encMat :
    decode 0b00000000_00000000_0_000_011_100_100001#32 = .ok (.encMat 4 3) := by decide
theorem test_decode_info :
    decode 0b00000000_00000000_0_000_111_001_100010#32 = .ok (.info 1 7) := by decide
theorem test_decode_decCyc :
    decode 0b00000000_00000001_0_001_100_101_101000#32 = .ok (.decCyc 5 4 1 1) := by decide
theorem test_decode_decMat :
    decode 0b00000000_00000000_0_000_110_011_101001#32 = .ok (.decMat 3 6) := by decide
theorem test_decode_synm :
    decode 0b00000000_00000000_0_000_010_001_110000#32 = .ok (.synm 1 2) := by decide
theorem test_decode_hrow :
    decode 0b00000000_11001000_0_000_000_011_110001#32 = .ok (.hrow 3 200) := by decide
theorem test_decode_hcol :
    decode 0b00000000_00000111_0_000_000_100_110010#32 = .ok (.hcol 4 7) := by decide
theorem test_decode_grow :
    decode 0b00000000_10000001_0_000_000_110_110011#32 = .ok (.grow 6 129) := by decide

/-- Rejected words of spec/95_test_vectors.md section 2.7, by the reason of 60_exceptions R259. -/
theorem test_decode_rejects :
    decode 0x00000000#32 = .error .unassignedOpcode ∧ decode 0x0000003F#32 = .error .unassignedOpcode ∧
      decode 0x00000008#32 = .error .unassignedOpcode ∧ decode 0x00008001#32 = .error .reservedBit ∧
      decode 0x00010001#32 = .error .unusedField ∧ decode 0x00000044#32 = .error .unusedField ∧
      decode 0x00000112#32 = .error .unusedField ∧ decode 0x80000010#32 = .error .unusedField ∧
      decodeBytes [0x12, 0x00, 0x00] = .error .truncated := by decide

/-- No word is matched by two rows: the OP values differ and every mask holds all of OP and Z (30_encoding R91, R94). -/
theorem test_opcode_rows_disjoint :
    (opcodeMap.map OpRow.op).Nodup ∧ ∀ row ∈ opcodeMap, row.mask &&& 0x803F#32 = 0x803F#32 := by decide

/-- The lowest byte of a word is at the lowest address (20_memory R74). -/
theorem test_word_bytes : wordBytes 0x00011968#32 = [0x68, 0x19, 0x01, 0x00] := by decide

theorem test_decodeTableWord : decodeTableWord 32 0x00030087 = some (.shlx 2 0 3) := by decide

/-- The assembler text of 30_encoding R102's examples. -/
theorem test_asmText : asmText (.decCyc 5 4 1 1) = "dec.cyc v5, v4, v1, 1" ∧ asmText (.rslvBch 4 1) = "rslv.bch 4, 1" := by
  decide

/-! ### One step of each command (spec/95_test_vectors.md) -/

/-- The state an outcome holds, or the reset state. -/
def stateOf (o : Host.Outcome State Fault Refusal) : State :=
  match o with
  | .next t => t
  | .fault _ => State.reset
  | .refused _ => State.reset

/-- The state a command leaves. -/
def after (i : Instr) (s : State) : State := stateOf (exec i s)

/-- The reset state with V0 and V1 loaded. -/
def loaded (a b : BVec) : State := (State.reset.setVec 0 a).setVec 1 b

/-- A session for k = 4 by the formula, with V0 and V1 loaded. -/
def hamming (a b : BVec) : State := after (.rslvH 4) (loaded a b)

/-- The (7, 4, 3, 1) BCH session, with V0 and V1 loaded. -/
def bch (a b : BVec) : State := after (.rslvBch 4 1) (loaded a b)

/-- What a test looks at: a vector register, RESULT, ERR and DSTAT. -/
def view (t : State) (i : VIdx) : BVec × Word × ErrCode × DStat := (t.vec i, t.result, t.err, t.dstat)

/-- A1. -/
theorem test_xor : view (after (.xor 2 0 1) (loaded ⟨4, 0b1011⟩ ⟨3, 0b110⟩)) 2 = (⟨4, 0b1101⟩, 4#32, .ok, .none) := by decide
/-- A10: leading zeros are kept. -/
theorem test_mul : view (after (.mul 2 0 1) (loaded ⟨4, 0b0011⟩ ⟨2, 0b11⟩)) 2 = (⟨5, 0b00101⟩, 5#32, .ok, .none) := by decide
/-- A13. -/
theorem test_mul_empty : view (after (.mul 2 0 1) (loaded ⟨0, 0⟩ ⟨3, 0b101⟩)) 2 = (⟨0, 0⟩, 0#32, .invalidInput, .none) := by decide
/-- A16. -/
theorem test_mod : view (after (.mod 2 0 1) (loaded ⟨7, 0b0011000⟩ ⟨4, 0b1011⟩)) 2 = (⟨3, 0b101⟩, 3#32, .ok, .none) := by decide
/-- A26. -/
theorem test_mod_by_zero : view (after (.mod 2 0 1) (loaded ⟨6, 0b110101⟩ ⟨3, 0b000⟩)) 2 = (⟨0, 0⟩, 0#32, .divisionByZero, .none) := by decide
/-- A28. -/
theorem test_wgt : view (after (.wgt 0) (loaded ⟨7, 0b1011010⟩ ⟨0, 0⟩)) 2 = (⟨0, 0⟩, 4#32, .ok, .none) := by decide
/-- A31. -/
theorem test_rotl : view (after (.rotl 2 0) (loaded ⟨7, 0b1101000⟩ ⟨0, 0⟩)) 2 = (⟨7, 0b1010001⟩, 7#32, .ok, .none) := by decide
/-- A32. -/
theorem test_rotr : view (after (.rotr 2 0) (loaded ⟨7, 0b1101000⟩ ⟨0, 0⟩)) 2 = (⟨7, 0b0110100⟩, 7#32, .ok, .none) := by decide
/-- A43. -/
theorem test_shlx : view (after (.shlx 2 0 3) (loaded ⟨4, 0b1011⟩ ⟨0, 0⟩)) 2 = (⟨7, 0b1011000⟩, 7#32, .ok, .none) := by decide

/-- A47. -/
theorem test_shlx_too_long : (after (.shlx 2 0 5) (loaded ⟨60, 1⟩ ⟨0, 0⟩)).err = .capacityExceeded := by decide

/-- Section 2.2, k = 5 and k = 58. -/
theorem test_rslvH : (after (.rslvH 5) State.reset).params = ⟨5, 4, 9, 0, 4, 5, .formula⟩ ∧
    (after (.rslvH 58) State.reset).err = .noSuitableParameters := by decide

/-- Section 2.2, (8, 2) and (25, 7). -/
theorem test_rslvBch : (after (.rslvBch 8 2) State.reset).params = ⟨21, 10, 31, 2, 5, 8, .bch⟩ ∧
    (after (.rslvBch 25 7) State.reset).err = .noSuitableParameters := by decide

/-- The reset state under a BCH_TABLE of the document's row and one more, with the default MINPOLY. -/
def withRow (e : Config.BchEntry) : State :=
  { State.reset with tables := { Config.defaultTables with bchTable := [⟨7, 4, 3, 1⟩, e] } }

/-- Section 2.3, the configuration-only results of SYN.BCH: a missing MINPOLY(3, 5) and MINPOLY(5, 9), a failed
post-check, a product that passes it. -/
theorem test_synBch_configurations :
    (after (.synBch 1) (after (.rslvBch 1 3) (withRow ⟨7, 1, 6, 3⟩))).err = .missingMinimalPolynomial ∧
    (after (.synBch 1) (after (.rslvBch 11 5) (withRow ⟨31, 11, 20, 5⟩))).err = .missingMinimalPolynomial ∧
    (after (.synBch 1) (after (.rslvBch 3 2) (withRow ⟨7, 3, 4, 2⟩))).err = .noGeneratorFound ∧
    view (after (.synBch 1) (after (.rslvBch 1 2) (withRow ⟨7, 1, 6, 2⟩))) 1 = (⟨7, 0b1111111⟩, 6#32, .ok, .none) := by
  decide

/-- A smaller GEN_MAX_DEGREE ends the search of G3 before the degree 4 (43 R172). -/
theorem test_synCyc_bound :
    (after (.synCyc 1 3) (after (.rslvH 2) { State.reset with tables := { Config.defaultTables with genMaxDegree := 3 } })).err =
      .noGeneratorFound := by decide

theorem test_clrp : (after .clrp (hamming ⟨0, 0⟩ ⟨0, 0⟩)).params = ⟨0, 0, 0, 0, 0, 0, .none⟩ := by decide

/-- G3: the session widens from (3, 5) to (4, 6). -/
theorem test_synCyc : view (after (.synCyc 1 3) (after (.rslvH 2) State.reset)) 1 = (⟨5, 0b10101⟩, 4#32, .ok, .none) ∧
    (after (.synCyc 1 3) (after (.rslvH 2) State.reset)).params = ⟨2, 4, 6, 0, 3, 2, .formula⟩ := by decide

/-- G11. -/
theorem test_synBch :
    view (after (.synBch 1) (after (.rslvBch 7 2) State.reset)) 1 = (⟨9, 0b111010001⟩, 8#32, .ok, .none) := by decide

/-- E4. -/
theorem test_encPoly : view (after (.encPoly 2 0 1) (bch ⟨4, 0b0001⟩ ⟨4, 0b1011⟩)) 2 = (⟨7, 0b0001011⟩, 7#32, .ok, .none) := by decide
/-- E8. -/
theorem test_encPoly_bad_generator : view (after (.encPoly 2 0 1) (bch ⟨4, 0b1011⟩ ⟨5, 0b10110⟩)) 2 = (⟨0, 0⟩, 7#32, .invalidInput, .none) := by decide
/-- E12. -/
theorem test_encMat : view (after (.encMat 2 0) (hamming ⟨4, 0b1011⟩ ⟨0, 0⟩)) 2 = (⟨7, 0b1011010⟩, 7#32, .ok, .none) := by decide
/-- E16: the padding is removed. -/
theorem test_info : view (after (.info 2 0) (after (.rslvBch 3 1) (loaded ⟨7, 0b0101100⟩ ⟨0, 0⟩))) 2 = (⟨3, 0b101⟩, 3#32, .ok, .none) := by decide
/-- D2. -/
theorem test_decCyc : view (after (.decCyc 2 0 1 1) (loaded ⟨7, 0b0011000⟩ ⟨4, 0b1011⟩)) 2 = (⟨7, 0b1011000⟩, 1#32, .ok, .corrected) := by decide
/-- D4. -/
theorem test_decCyc_uncorrectable : view (after (.decCyc 2 0 1 0) (loaded ⟨7, 0b1011001⟩ ⟨4, 0b1011⟩)) 2 = (⟨7, 0b1011001⟩, 7#32, .ok, .uncorrectable) := by decide
/-- M2. -/
theorem test_decMat : view (after (.decMat 2 0) (hamming ⟨7, 0b1001010⟩ ⟨0, 0⟩)) 2 = (⟨7, 0b1011010⟩, 3#32, .ok, .corrected) := by decide
/-- M5. -/
theorem test_decMat_undetermined : view (after (.decMat 2 0) (after (.rslvH 5) (loaded ⟨9, 0b001110010⟩ ⟨0, 0⟩))) 2 = (⟨9, 0b001110010⟩, 0#32, .ok, .undeterminedError) := by decide
/-- H8. -/
theorem test_synm : view (after (.synm 1 0) (hamming ⟨7, 0b1001010⟩ ⟨0, 0⟩)) 1 = (⟨3, 0b110⟩, 3#32, .ok, .none) := by decide
/-- H1. -/
theorem test_hrow : view (after (.hrow 1 1) (hamming ⟨0, 0⟩ ⟨0, 0⟩)) 1 = (⟨7, 0b0111100⟩, 7#32, .ok, .none) := by decide
/-- H15. -/
theorem test_hcol : view (after (.hcol 1 9) (after (.rslvH 5) State.reset)) 1 = (⟨4, 0b0001⟩, 4#32, .ok, .none) := by decide
/-- H7. -/
theorem test_grow : view (after (.grow 1 4) (hamming ⟨0, 0⟩ ⟨0, 0⟩)) 1 = (⟨7, 0b0001111⟩, 7#32, .ok, .none) := by decide

/-- DATA bits above LEN are ignored by a read and cleared by a write (95 section 2.1, 10_state R34, R35). -/
theorem test_operand_ignores_bits_above_len :
    view (after (.xor 2 0 1) (State.reset.setVreg 0 ⟨3, 0xFFFFFFFD#64⟩)) 2 = (⟨3, 0b101⟩, 3#32, .ok, .none) := by decide

/-- The configuration conforms (00_scope R10, R11, 42 R159). -/
theorem test_tables_wf : Config.defaultTables.wf := by decide

/-- The numbers of ERR and PMODE (60_exceptions R250, 10_state R49). -/
theorem test_codes : [ErrCode.ok, .invalidInput, .divisionByZero, .noSuitableParameters, .noGeneratorFound,
      .missingMinimalPolynomial, .positionError, .exceedsCapability, .illegalCommand, .sessionError,
      .capacityExceeded].map ErrCode.code = List.range 11 ∧
    [Mode.none, .formula, .bch].map Mode.code = List.range 3 := by decide

/-- L2, L3: the interlock; L12: the soft reset aborts. -/
theorem test_lifecycle :
    ((stateOf (busWrite 0x00C 32 0x12#32 (stateOf (busWrite 0x00C 32 0x00040010#32 State.reset)))).statusWord,
      (stateOf (busWrite 0x004 32 2#32 (stateOf (busWrite 0x00C 32 0x00010010#32 State.reset)))).statusWord) =
    (5#32, 0#32) := by decide

/-- Section 2.7: V3.LEN takes 64 at most, and a byte of the window is the little-endian byte of its register. -/
theorem test_host_access :
    (stateOf (busWrite 0x130 32 100#32 State.reset)).readReg (regAt 0x130) = 64#32 ∧
      State.reset.windowByte 0 = 0x40#8 ∧ State.reset.windowByte 3 = 0x47#8 := by decide

/-- The writes of `li.v` and of a command go where 20_memory R71 puts them. -/
theorem test_macros : liV 2 ⟨4, 11⟩ = [.busWrite 0x120 32 4, .busWrite 0x124 32 11, .busWrite 0x128 32 0] ∧
    issue .clrp 1 = [.busWrite 0x00C 32 0x12, .busRead 0x008 32, .engine, .busRead 0x008 32] := by decide

/-- A fetched command word runs as the first step after reset (log 11). -/
theorem test_withFetchWord : (stateOf (step (State.reset.withFetchWord 32 0x00040010))).pn = 7 := by decide

/-- An access outside the window is the one fault (log 4). -/
theorem test_outside_window : (match busRead 0x200 32 State.reset with | .fault f => some f | _ => none) =
    some (.outsideWindow 0x200) := by decide

/-! ### Witnesses: states and operands that meet the hypotheses of the statements, clause by clause -/

theorem witness_MulWritesCarrylessProduct :
    ((((loaded ⟨0, 0⟩ ⟨1, 0b1⟩)).vec 0).len = 0) ∧
    (((loaded ⟨33, 1⟩ ⟨33, 1⟩).vec 0).len ≠ 0 ∧ ((loaded ⟨33, 1⟩ ⟨33, 1⟩).vec 1).len ≠ 0 ∧
      64 < ((loaded ⟨33, 1⟩ ⟨33, 1⟩).vec 0).len + ((loaded ⟨33, 1⟩ ⟨33, 1⟩).vec 1).len - 1) ∧
    (((loaded ⟨33, 1⟩ ⟨32, 1⟩).vec 0).len ≠ 0 ∧ ((loaded ⟨33, 1⟩ ⟨32, 1⟩).vec 1).len ≠ 0 ∧
      ((loaded ⟨33, 1⟩ ⟨32, 1⟩).vec 0).len + ((loaded ⟨33, 1⟩ ⟨32, 1⟩).vec 1).len - 1 ≤ 64) := by
  refine ⟨?_, ?_, ?_⟩ <;> decide

theorem witness_ModWritesRemainder :
    (((loaded ⟨2, 3⟩ ⟨3, 0⟩).vec 1).val = 0) ∧
    (((loaded ⟨2, 3⟩ ⟨1, 1⟩).vec 1).val ≠ 0) := by
  refine ⟨?_, ?_⟩ <;> decide

theorem witness_RemainderIsUnique :
    ((0b1011 : Nat) ≠ 0) ∧
    (0b11000 = clmul 0b11 0b1011 ^^^ 0b101) ∧
    ((0b101 : Nat) = 0 ∨ (0b101 : Nat).log2 < (0b1011 : Nat).log2) := by
  refine ⟨?_, ?_, ?_⟩ <;> decide

theorem witness_ShlxAppendsZeroElements :
    (64 < ((loaded ⟨60, 1⟩ ⟨0, 0⟩).vec 0).len + 5) ∧
    (((loaded ⟨60, 1⟩ ⟨0, 0⟩).vec 0).len + 4 ≤ 64) := by
  refine ⟨?_, ?_⟩ <;> decide

theorem witness_RotationsCloseAndUndo :
    (BVec.Fits ⟨0, 0⟩) ∧
    (BVec.Fits ⟨64, 0x8000000000000001⟩) := by
  refine ⟨?_, ?_⟩ <;> decide

theorem witness_RotationIsMultiplicationByPowerOfX :
    (BVec.Fits ⟨64, 0x8000000000000001⟩ ∧ 1 ≤ (⟨64, 0x8000000000000001⟩ : BVec).len) ∧
    (BVec.Fits ⟨1, 1⟩ ∧ 1 ≤ (⟨1, 1⟩ : BVec).len) := by
  refine ⟨?_, ?_⟩ <;> decide

theorem witness_RslvHStartsFormulaSession :
    (0 = clog2 (0 + 1 + clog2 (0 + 1))) ∧
    (7 = clog2 (58 + 1 + clog2 (58 + 1)) ∧ 64 < 58 + 7 + 1) ∧
    (6 = clog2 (57 + 1 + clog2 (57 + 1)) ∧ 57 + 6 + 1 ≤ 64) := by
  refine ⟨?_, ?_, ?_⟩ <;> decide

theorem witness_RslvHMeetsHammingBound :
    (1 ≤ 1 ∧ 1 ≤ 57) ∧
    (1 ≤ 57 ∧ 57 ≤ 57) := by
  refine ⟨?_, ?_⟩ <;> decide

theorem witness_RslvBchTakesSmallestEntry :
    (∀ e ∈ State.reset.tables.bchTable, ¬ bchMatches 58 0 e) ∧
    (State.reset.tables.bchTable = [] ++ ⟨7, 4, 3, 1⟩ :: State.reset.tables.bchTable.tail ∧ bchMatches 4 1 ⟨7, 4, 3, 1⟩) ∧
    (State.reset.tables.bchTable = State.reset.tables.bchTable.take 13 ++ ⟨63, 24, 39, 7⟩ :: [] ∧
      (∀ x ∈ State.reset.tables.bchTable.take 13, ¬ bchMatches 24 7 x) ∧ bchMatches 24 7 ⟨63, 24, 39, 7⟩ ∧
      Config.BchEntry.wf ⟨63, 24, 39, 7⟩ ∧ State.reset.tables.wf) := by
  refine ⟨?_, ?_, ?_⟩ <;> decide

/-- The state with the word in flight, the engine's turn next. -/
def inFlight (w : Word) : State := (hamming ⟨0, 0⟩ ⟨0, 0⟩).withInFlight w

/-- A machine with one turn to take. -/
def turnNext (t : Turn) (s : State) : State := { s with schedule := [t] }

/-- A busy machine with one turn to take. -/
def busyTurn (t : Turn) : State := { inFlight 0x12#32 with schedule := [t] }

theorem witness_ParametersChangeOnlyByTheirCommands :
    (∃ t, step (inFlight 0x12#32) = .next t ∧ t.params ≠ (inFlight 0x12#32).params) ∧
    (∃ t, step (turnNext .hardReset (hamming ⟨0, 0⟩ ⟨0, 0⟩)) = .next t ∧ t.params ≠ (hamming ⟨0, 0⟩ ⟨0, 0⟩).params) ∧
    ∃ t, step (busyTurn (.busWrite 0x004 32 2#32)) = .next t ∧ t.params ≠ (inFlight 0x12#32).params :=
  ⟨⟨_, rfl, by decide⟩, ⟨_, rfl, by decide⟩, ⟨_, rfl, by decide⟩⟩

/-- A weight is at most the number of bits looked at. -/
theorem popcountBits_le (n a : Nat) : popcountBits n a ≤ n := by
  induction n generalizing a with
  | zero => simp [popcountBits]
  | succ n ih => simp only [popcountBits]; have := ih (a / 2); omega

/-- G8, G7 and G2: no formula session; a weight no candidate has; the least candidate for k = 1. -/
theorem witness_SynCycSelectsFirstGenerator :
    State.reset.params.mode ≠ .formula ∧
    ((hamming ⟨0, 0⟩ ⟨0, 0⟩).params.mode = .formula ∧
      ∀ r v, synCycDegree (hamming ⟨0, 0⟩ ⟨0, 0⟩) r → ¬ synCycCandidate 200 (hamming ⟨0, 0⟩ ⟨0, 0⟩).pk r v) ∧
    ((after (.rslvH 1) State.reset).params.mode = .formula ∧ synCycDegree (after (.rslvH 1) State.reset) 2 ∧
      synCycCandidate 3 (after (.rslvH 1) State.reset).pk 2 7 ∧
      ∀ r' v', synCycDegree (after (.rslvH 1) State.reset) r' →
        synCycCandidate 3 (after (.rslvH 1) State.reset).pk r' v' → 2 < r' ∨ 2 = r' ∧ 7 ≤ v') := by
  refine ⟨by decide, ⟨by decide, ?_⟩, by decide, by decide, by decide, ?_⟩
  · intro r v hr hv
    have h1 : popcount v ≤ r + 1 := popcount_eq_popcountBits hv.2.1 ▸ popcountBits_le _ _
    have h2 : r ≤ 16 := hr.2.1
    have h3 : 200 ≤ popcount v := hv.2.2.1
    omega
  · intro r v hr hv
    have h1 : 2 ≤ r := hr.1
    rcases Nat.lt_or_eq_of_le h1 with h | h
    · exact .inl h
    · subst h
      have h2 : 2 ^ 2 ≤ v := hv.1
      have h3 : v < 2 ^ 3 := hv.2.1
      have h4 : 3 ≤ popcount v := hv.2.2.1
      have h5 : ∀ x < 2 ^ 3, 2 ^ 2 ≤ x → 3 ≤ popcount x → 7 ≤ x := by decide
      exact .inr ⟨rfl, h5 v h3 h2 h4⟩

/-- Eleven polynomials of field degree 6, the first of them given. -/
def longProduct (first : BVec) : List BVec := first :: List.replicate 10 ⟨7, 0b1000011⟩

/-- A table that defines MINPOLY(6, i) for i = 1, 3, …, 21 and nothing else. -/
def longTable (first : BVec) : Config.Tables where
  genMaxDegree := 16
  bchTable := []
  minPoly := (longProduct first).zipIdx.map fun (q, j) => ⟨6, 2 * j + 1, q⟩

/-- A session of field degree 6 with s = 12. -/
def longSession : Params := bchSession 1 ⟨63, 1, 62, 12⟩

/-- The reset state with the given configuration and session. -/
def configured (tables : Config.Tables) (p : Params) : State := { State.reset with tables := tables, params := p }

theorem witness_SynBchWritesGenerator :
    ((hamming ⟨0, 0⟩ ⟨0, 0⟩).params.mode ≠ .bch) ∧
    ((configured (longTable ⟨5, 0b10011⟩) (bchSession 1 ⟨63, 1, 62, 11⟩)).params.mode = .bch) ∧
    (∀ e ∈ (longTable ⟨5, 0b10011⟩).minPoly, e.wf) ∧
    (((List.range 11).map fun j => (longTable ⟨5, 0b10011⟩).minPolyAt 6 (2 * j + 1)) = (longProduct ⟨5, 0b10011⟩).map some) ∧
    (Config.W < productLen (longProduct ⟨5, 0b10011⟩)) ∧
    (let s := configured Config.defaultTables (bchSession 3 ⟨7, 3, 4, 2⟩); s.params.mode = .bch ∧ (∀ e ∈ s.tables.minPoly, e.wf) ∧
      ((List.range s.ps).map fun j => s.tables.minPolyAt s.ph (2 * j + 1)) =
        ([⟨4, 0b1011⟩, ⟨4, 0b1101⟩] : List BVec).map some ∧
      productLen [⟨4, 0b1011⟩, ⟨4, 0b1101⟩] ≤ Config.W ∧ productLen [⟨4, 0b1011⟩, ⟨4, 0b1101⟩] ≠ s.pr + 1) ∧
    (let s := configured Config.defaultTables (bchSession 1 ⟨7, 1, 6, 2⟩); ((List.range s.ps).map fun j => s.tables.minPolyAt s.ph (2 * j + 1)) =
        ([⟨4, 0b1011⟩, ⟨4, 0b1101⟩] : List BVec).map some ∧
      productLen [⟨4, 0b1011⟩, ⟨4, 0b1101⟩] = s.pr + 1 ∧
      clmod (2 ^ s.pn + 1) (productVal [⟨4, 0b1011⟩, ⟨4, 0b1101⟩]) = 0) ∧
    ((bch ⟨0, 0⟩ ⟨0, 0⟩).Inv ∧ (bch ⟨0, 0⟩ ⟨0, 0⟩).tables = Config.defaultTables ∧ (bch ⟨0, 0⟩ ⟨0, 0⟩).params.mode = .bch) := by
  refine ⟨?_, ?_, ?_, ?_, ?_, ?_, ?_, ?_⟩ <;> decide

/-- 95 section 2.3: (7, 1, 6, 3) lacks MINPOLY(3, 5); h = 2 has no entry; products of length 64 and 65 before MINPOLY(6, 23). -/
theorem witness_MissingMinimalPolynomialIsFatal :
    (let s := configured Config.defaultTables (bchSession 1 ⟨7, 1, 6, 3⟩); s.params.mode = .bch ∧ 2 < s.ps ∧ s.tables.minPolyAt s.ph (2 * 2 + 1) = none) ∧
    (let s := configured Config.defaultTables (bchSession 1 ⟨3, 1, 2, 1⟩); s.params.mode = .bch ∧ 0 < s.ps ∧ s.tables.minPolyAt s.ph (2 * 0 + 1) = none) ∧
    (let s := configured (longTable ⟨4, 0b1011⟩) longSession; s.params.mode = .bch ∧ 11 < s.ps ∧ s.tables.minPolyAt s.ph (2 * 11 + 1) = none) ∧
    (∀ e ∈ (configured (longTable ⟨4, 0b1011⟩) longSession).tables.minPoly, e.wf) ∧
    (let s := configured (longTable ⟨4, 0b1011⟩) longSession; ((List.range 11).map fun i => s.tables.minPolyAt s.ph (2 * i + 1)) = (longProduct ⟨4, 0b1011⟩).map some) ∧
    (productLen (longProduct ⟨4, 0b1011⟩) ≤ Config.W) ∧
    (let s := configured (longTable ⟨5, 0b10011⟩) longSession; s.params.mode = .bch ∧ 11 < s.ps ∧ s.tables.minPolyAt s.ph (2 * 11 + 1) = none) ∧
    (∀ e ∈ (configured (longTable ⟨5, 0b10011⟩) longSession).tables.minPoly, e.wf) ∧
    (let s := configured (longTable ⟨5, 0b10011⟩) longSession; ((List.range 11).map fun i => s.tables.minPolyAt s.ph (2 * i + 1)) = (longProduct ⟨5, 0b10011⟩).map some) ∧
    (Config.W < productLen (longProduct ⟨5, 0b10011⟩)) := by
  refine ⟨?_, ?_, ?_, ?_, ?_, ?_, ?_, ?_, ?_, ?_⟩ <;> decide

theorem witness_EncPolyWritesSystematicWord :
    (State.reset.params.mode = .none) ∧
    (let s := (bch ⟨4, 0b1011⟩ ⟨5, 0b10110⟩); s.params.mode ≠ .none ∧ (s.vec 1).len ≠ s.pr + 1) ∧
    (let s := (bch ⟨5, 0b10110⟩ ⟨4, 0b1011⟩); s.params.mode ≠ .none ∧ (s.vec 1).len = s.pr + 1 ∧ (s.vec 0).len ≠ s.pkreq ∧ (s.vec 0).len ≠ s.pk) ∧
    (let s := (bch ⟨4, 0b1011⟩ ⟨4, 0b0000⟩); s.params.mode ≠ .none ∧ (s.vec 1).len = s.pr + 1 ∧ ((s.vec 0).len = s.pkreq ∨ (s.vec 0).len = s.pk) ∧ (s.vec 1).val = 0) ∧
    (let s := (bch ⟨4, 0b1011⟩ ⟨4, 0b1011⟩); s.Inv ∧ s.params.mode ≠ .none ∧ (s.vec 1).len = s.pr + 1 ∧
      ((s.vec 0).len = s.pkreq ∨ (s.vec 0).len = s.pk) ∧ (s.vec 1).val ≠ 0) := by
  refine ⟨?_, ?_, ?_, ?_, ?_⟩ <;> decide

theorem witness_EncPolyWordIsMultipleOfGenerator :
    (let s := (after (.rslvBch 3 1) (loaded ⟨3, 0b101⟩ ⟨4, 0b1011⟩)); s.Inv ∧ s.params.mode ≠ .none ∧ (s.vec 1).len = s.pr + 1 ∧
      ((s.vec 0).len = s.pkreq ∨ (s.vec 0).len = s.pk) ∧ (s.vec 1).elem 0 = true) := by decide

theorem witness_EncMatWritesCodeword :
    (¬ HammingShape (bch ⟨0, 0⟩ ⟨0, 0⟩).params) ∧
    (let s := (hamming ⟨3, 0b101⟩ ⟨0, 0⟩); HammingShape s.params ∧ (s.vec 0).len ≠ s.pk) ∧
    (let s := (hamming ⟨4, 0b1011⟩ ⟨0, 0⟩); s.Inv ∧ HammingShape s.params ∧ (s.vec 0).len = s.pk) := by
  refine ⟨?_, ?_, ?_⟩ <;> decide

theorem witness_InfoReturnsInformationElements :
    (State.reset.params.mode = .none) ∧
    (let s := (hamming ⟨6, 0b101101⟩ ⟨0, 0⟩); s.params.mode ≠ .none ∧ (s.vec 0).len ≠ s.pn) ∧
    (let s := (after (.rslvBch 3 1) (loaded ⟨7, 0b0101100⟩ ⟨0, 0⟩)); s.Inv ∧ s.params.mode ≠ .none ∧ (s.vec 0).len = s.pn) := by
  refine ⟨?_, ?_, ?_⟩ <;> decide

theorem witness_EncodersAreLinear :
    (let p := bchSession 3 ⟨7, 4, 3, 1⟩; p.wf Config.defaultTables ∧ p.mode ≠ .none ∧ BVec.Fits ⟨3, 5⟩ ∧ BVec.Fits ⟨4, 1⟩ ∧ 3 = p.kreq.toNat ∧
      4 = p.k.toNat ∧ 3 + 1 = p.r.toNat + 1 ∧ BVec.Fits ⟨4, 0b1011⟩) ∧
    (let p := formulaSession 4; p.wf Config.defaultTables ∧ p.mode ≠ .none ∧ BVec.Fits ⟨4, 11⟩ ∧ BVec.Fits ⟨4, 1⟩ ∧ 4 = p.k.toNat ∧
      3 + 1 = p.r.toNat + 1 ∧ BVec.Fits ⟨4, 0b1011⟩ ∧ HammingShape p) := by
  refine ⟨?_, ?_⟩ <;> decide

/-- D10, D8, D7, D2, D4. -/
theorem witness_DecCycSearchesRotations :
    (let s := (loaded ⟨0, 0⟩ ⟨4, 0b1011⟩); (s.vec 0).len < (s.vec 1).len - 1) ∧
    (let s := (loaded ⟨7, 0b1011000⟩ ⟨4, 0b0000⟩); (s.vec 1).len - 1 ≤ (s.vec 0).len ∧ (s.vec 1).val = 0) ∧
    (let s := (loaded ⟨7, 0b1011000⟩ ⟨1, 0b1⟩); (s.vec 1).len - 1 ≤ (s.vec 0).len ∧ (s.vec 1).val ≠ 0 ∧ clmod (s.vec 0).val (s.vec 1).val = 0) ∧
    (let s := (loaded ⟨7, 0b0011000⟩ ⟨4, 0b1011⟩); (s.vec 1).len - 1 ≤ (s.vec 0).len ∧ (s.vec 1).val ≠ 0 ∧ clmod (s.vec 0).val (s.vec 1).val ≠ 0 ∧
      1 < (s.vec 0).len ∧ (rotatedSyndrome (s.vec 0) (s.vec 1) 1).weight ≤ 1 ∧
      ∀ c' < 1, 1 < (rotatedSyndrome (s.vec 0) (s.vec 1) c').weight) ∧
    (let s := (loaded ⟨7, 0b1011001⟩ ⟨4, 0b1011⟩); (s.vec 1).len - 1 ≤ (s.vec 0).len ∧ (s.vec 1).val ≠ 0 ∧ clmod (s.vec 0).val (s.vec 1).val ≠ 0 ∧
      ∀ c < (s.vec 0).len, 0 < (rotatedSyndrome (s.vec 0) (s.vec 1) c).weight) := by
  refine ⟨?_, ?_, ?_, ?_, ?_⟩ <;> decide

/-- M8, M4, M1, the last position of section 1.5, M5. -/
theorem witness_DecMatMatchesColumn :
    (¬ HammingShape (bch ⟨7, 0b1011000⟩ ⟨0, 0⟩).params) ∧
    (let s := (hamming ⟨6, 0b101101⟩ ⟨0, 0⟩); HammingShape s.params ∧ (s.vec 0).len ≠ s.pn) ∧
    (let s := (hamming ⟨7, 0b1011010⟩ ⟨0, 0⟩); HammingShape s.params ∧ (s.vec 0).len = s.pn ∧ matSyndrome s.pk s.pr s.pn (s.vec 0) = 0) ∧
    (let s := (hamming ⟨7, 0b1011011⟩ ⟨0, 0⟩); s.Inv ∧ HammingShape s.params ∧ (s.vec 0).len = s.pn ∧ matSyndrome s.pk s.pr s.pn (s.vec 0) ≠ 0 ∧
      1 ≤ 7 ∧ 7 ≤ s.pn ∧ colval s.pk s.pr 7 = matSyndrome s.pk s.pr s.pn (s.vec 0)) ∧
    (let s := (after (.rslvH 5) (loaded ⟨9, 0b001110010⟩ ⟨0, 0⟩)); HammingShape s.params ∧ (s.vec 0).len = s.pn ∧
      matSyndrome s.pk s.pr s.pn (s.vec 0) ≠ 0 ∧
      ∀ p ∈ List.range' 1 s.pn, colval s.pk s.pr p ≠ matSyndrome s.pk s.pr s.pn (s.vec 0)) := by
  refine ⟨?_, ?_, ?_, ?_, ?_⟩ <;> decide

theorem witness_DecMatCorrectsEverySingleError :
    (let s := (hamming ⟨7, 0b1011011⟩ ⟨0, 0⟩); s.Inv ∧ HammingShape s.params ∧ 1 ≤ 7 ∧ 7 ≤ s.pn) ∧
    (let s := (hamming ⟨7, 0b1011011⟩ ⟨0, 0⟩); let c : BVec := ⟨7, 0b1011010⟩; c.Fits ∧ c.len = s.pn ∧
      matSyndrome s.pk s.pr s.pn c = 0 ∧ s.vec 0 = c.flip (7 - 1)) := by
  refine ⟨?_, ?_⟩ <;> decide

theorem witness_HammingRoundTripWithOneError :
    (let s := (hamming ⟨4, 0b1011⟩ ⟨0, 0⟩); s.Inv ∧ HammingShape s.params ∧ (s.vec 0).len = s.pk ∧ 1 ≤ 1 ∧ 7 ≤ s.pn) := by decide

theorem witness_CyclicRoundTripWithoutErrors :
    (let s := (after (.rslvBch 3 1) (loaded ⟨3, 0b101⟩ ⟨4, 0b1011⟩)); s.Inv ∧ s.params.mode ≠ .none ∧ (s.vec 1).len = s.pr + 1 ∧
      (s.vec 1).elem 0 = true ∧ (s.vec 0).len = s.pkreq ∧ (2 : VIdx) ≠ 1) := by decide

theorem witness_OnlyDecodersWriteDstat :
    (∃ t, exec (.decCyc 2 0 1 1) (loaded ⟨7, 0b0011000⟩ ⟨4, 0b1011⟩) = .next t ∧ t.err = .ok ∧ t.dstat ≠ .none) ∧
    ∃ t, exec (.decMat 2 0) (hamming ⟨7, 0b1001010⟩ ⟨0, 0⟩) = .next t ∧ t.err = .ok ∧ t.dstat ≠ .none :=
  ⟨⟨_, rfl, by decide, by decide⟩, ⟨_, rfl, by decide, by decide⟩⟩

theorem witness_ColumnsAreOneToNOnce :
    ((formulaSession 57).wf Config.defaultTables ∧ HammingShape (formulaSession 57) ∧ 1 ≤ 63 ∧ 63 ≤ (formulaSession 57).n.toNat) ∧
    ((formulaSession 1).wf Config.defaultTables ∧ HammingShape (formulaSession 1) ∧ 1 ≤ (formulaSession 1).n.toNat) ∧
    (1 < 57 ∧ 57 ≤ (formulaSession 57).k.toNat ∧ 1 ≤ (formulaSession 1).k.toNat ∧ 6 ≤ (formulaSession 57).r.toNat) := by
  refine ⟨?_, ?_, ?_⟩ <;> decide

theorem witness_CodewordsAreOrthogonalToH :
    ((formulaSession 57).wf Config.defaultTables ∧ HammingShape (formulaSession 57)) ∧
    (1 ≤ 57 ∧ 57 ≤ (formulaSession 57).k.toNat) ∧
    (BVec.Fits ⟨57, 1⟩ ∧ 57 = (formulaSession 57).k.toNat) := by
  refine ⟨?_, ?_, ?_⟩ <;> decide

theorem witness_SynmWritesMatrixSyndrome :
    (¬ HammingShape (bch ⟨0, 0⟩ ⟨0, 0⟩).params) ∧
    (let s := (hamming ⟨6, 0b101101⟩ ⟨0, 0⟩); HammingShape s.params ∧ (s.vec 0).len ≠ s.pn) ∧
    (let s := (hamming ⟨7, 0b1001010⟩ ⟨0, 0⟩); s.Inv ∧ HammingShape s.params ∧ (s.vec 0).len = s.pn) := by
  refine ⟨?_, ?_, ?_⟩ <;> decide

theorem witness_HrowReadsRowOfH :
    (¬ HammingShape (bch ⟨0, 0⟩ ⟨0, 0⟩).params) ∧
    (let s := (hamming ⟨0, 0⟩ ⟨0, 0⟩); HammingShape s.params ∧ (0 < 1 ∨ s.pr < 0)) ∧
    (let s := (hamming ⟨0, 0⟩ ⟨0, 0⟩); HammingShape s.params ∧ (4 < 1 ∨ s.pr < 4)) ∧
    (let s := (hamming ⟨0, 0⟩ ⟨0, 0⟩); s.Inv ∧ HammingShape s.params ∧ 1 ≤ 3 ∧ 3 ≤ s.pr) ∧
    (let s := (hamming ⟨0, 0⟩ ⟨0, 0⟩); s.Inv ∧ HammingShape s.params ∧ 1 ≤ 1 ∧ 1 ≤ s.pr) := by
  refine ⟨?_, ?_, ?_, ?_, ?_⟩ <;> decide

theorem witness_HcolReadsColumnOfH :
    (¬ HammingShape (bch ⟨0, 0⟩ ⟨0, 0⟩).params) ∧
    (let s := (hamming ⟨0, 0⟩ ⟨0, 0⟩); HammingShape s.params ∧ (0 < 1 ∨ s.pn < 0)) ∧
    (let s := (hamming ⟨0, 0⟩ ⟨0, 0⟩); HammingShape s.params ∧ (8 < 1 ∨ s.pn < 8)) ∧
    (let s := (hamming ⟨0, 0⟩ ⟨0, 0⟩); s.Inv ∧ HammingShape s.params ∧ 1 ≤ 7 ∧ 7 ≤ s.pn) ∧
    (let s := (hamming ⟨0, 0⟩ ⟨0, 0⟩); s.Inv ∧ HammingShape s.params ∧ 1 ≤ 1 ∧ 1 ≤ s.pn) := by
  refine ⟨?_, ?_, ?_, ?_, ?_⟩ <;> decide

theorem witness_GrowReadsRowOfG :
    (¬ HammingShape (bch ⟨0, 0⟩ ⟨0, 0⟩).params) ∧
    (let s := (hamming ⟨0, 0⟩ ⟨0, 0⟩); HammingShape s.params ∧ (0 < 1 ∨ s.pk < 0)) ∧
    (let s := (hamming ⟨0, 0⟩ ⟨0, 0⟩); HammingShape s.params ∧ (5 < 1 ∨ s.pk < 5)) ∧
    (let s := (hamming ⟨0, 0⟩ ⟨0, 0⟩); s.Inv ∧ HammingShape s.params ∧ 1 ≤ 4 ∧ 4 ≤ s.pk) ∧
    (let s := (hamming ⟨0, 0⟩ ⟨0, 0⟩); s.Inv ∧ HammingShape s.params ∧ 1 ≤ 1 ∧ 1 ≤ s.pk) := by
  refine ⟨?_, ?_, ?_, ?_, ?_⟩ <;> decide

theorem witness_DecodeOfEncode : Instr.wf (.decCyc 7 7 7 255) := by decide

theorem witness_EncodeOfDecode : decode 0x00FFFFE8#32 = .error .reservedBit ∧
    decode 0x00FF7FE8#32 = .ok (.decCyc 7 7 7 255) := by decide

theorem witness_DecodeAcceptsByMaskAndMatch :
    ∃ row ∈ opcodeMap, 0x12#32 &&& row.mask = row.matchWord := by decide

theorem witness_FailuresWriteOnlyStatus :
    ∃ t, exec (.mod 2 0 1) (loaded ⟨1, 1⟩ ⟨0, 0⟩) = .next t ∧ t.err ≠ .ok := ⟨_, rfl, by decide⟩

theorem witness_CommandsWriteOnlyTheirDestination :
    (∃ t, exec (.xor 2 0 1) State.reset = .next t) ∧ (∃ t, exec (.decMat 2 0) State.reset = .next t) ∧
      (∃ t, exec (.synCyc 2 3) State.reset = .next t) ∧ (∃ t, exec (.wgt 0) State.reset = .next t) ∧
      ∃ t, exec .clrp State.reset = .next t :=
  ⟨⟨_, rfl⟩, ⟨_, rfl⟩, ⟨_, rfl⟩, ⟨_, rfl⟩, ⟨_, rfl⟩⟩

theorem witness_StepRunsDecodedCommand :
    ((inFlight 0x12#32).schedule = [.engine] ∧ (inFlight 0x12#32).busy = true ∧ decode (inFlight 0x12#32).cmd = .ok .clrp) ∧
    ((turnNext .engine State.reset).schedule = [.engine] ∧ (turnNext .engine State.reset).busy = false) := by decide

theorem witness_IssueThenComplete :
    let s : State := { State.reset with schedule := [.busWrite 0x00C 32 (encode .clrp), .engine] }
    s.busy = false ∧ s.schedule = [.busWrite 0x00C 32 (encode .clrp), .engine] ∧ decode (encode .clrp) = .ok .clrp ∧
      Instr.wf .clrp := by decide

/-- An unassigned OP, Z = 1, and a nonzero unused field. -/
theorem witness_IllegalWordsRaiseIllegalCommand :
    ((inFlight 0x3F#32).busy = true ∧ (inFlight 0x3F#32).schedule = [.engine] ∧
      ∀ row ∈ opcodeMap, row.op ≠ opField (inFlight 0x3F#32).cmd) ∧
    ((inFlight 0x8001#32).busy = true ∧ zField (inFlight 0x8001#32).cmd = 1) ∧
    ∃ row ∈ opcodeMap, row.op = opField (inFlight 0x00010001#32).cmd ∧
      (inFlight 0x00010001#32).cmd &&& row.mask ≠ row.matchWord := by decide

theorem witness_ResetsReturnToResetState :
    (turnNext .hardReset State.reset).schedule = [.hardReset] ∧
    (busyTurn (.busWrite 0x004 32 2#32)).schedule = [.busWrite 0x004 32 2#32] ∧ (2#32).getLsbD 1 = true := by decide

theorem witness_ControlAndStatusWrites :
    ((busyTurn (.busWrite 0x004 32 1#32)).schedule = [.busWrite 0x004 32 1#32] ∧ (1#32).getLsbD 1 = false) ∧
    (busyTurn (.busWrite 0x008 32 6#32)).schedule = [.busWrite 0x008 32 6#32] := by decide

/-- CMD, the first and the last vector field; a read-only, a reserved and the last word of the window; a read. -/
theorem witness_InterlockAndIgnoredWrites :
    ((busyTurn (.busWrite 0x00C 32 0#32)).busy = true ∧
      (busyTurn (.busWrite 0x00C 32 0#32)).schedule = [.busWrite 0x00C 32 0#32]) ∧
    (vectorField 0x100 ∧ vectorField 0x178 ∧ ¬ vectorField 0x17C ∧ ¬ vectorField 0x180 ∧ ¬ vectorField 0x010) ∧
    ((0x1FC < 0x200 ∧ 0x1FC % 4 = 0 ∧ ¬ vectorField 0x1FC) ∧
      (turnNext (.busWrite 0x1FC 32 1#32) State.reset).schedule = [.busWrite 0x1FC 32 1#32]) ∧
    (turnNext (.busRead 0x000 32) State.reset).schedule = [.busRead 0x000 32] := by decide

/-- The first register, V7.DHI, and the edges of the reserved ranges. -/
theorem witness_RegisterWindowReads :
    (turnNext (.busRead 0x000 32) State.reset).schedule = [.busRead 0x000 32] ∧
    (turnNext (.busRead (0x100 + 0x10 * (7 : VIdx).val + 8) 32) State.reset).schedule = [.busRead 0x178 32] ∧
    (turnNext (.busRead 0x014 32) State.reset).schedule = [.busRead 0x014 32] ∧
    (turnNext (.busRead 0x03C 32) State.reset).schedule = [.busRead 0x03C 32] ∧
    (turnNext (.busRead 0x1FC 32) State.reset).schedule = [.busRead 0x1FC 32] := by decide

theorem witness_HostVectorWrites :
    ((turnNext (.busWrite 0x130 32 100#32) State.reset).busy = false ∧
      (turnNext (.busWrite (0x100 + 0x10 * (3 : VIdx).val) 32 100#32) State.reset).schedule = [.busWrite 0x130 32 100#32]) ∧
    (turnNext (.busWrite (0x104 + 0x10 * (0 : VIdx).val) 32 1#32) State.reset).schedule = [.busWrite 0x104 32 1#32] ∧
    (turnNext (.busWrite (0x108 + 0x10 * (7 : VIdx).val) 32 1#32) State.reset).schedule = [.busWrite 0x178 32 1#32] := by decide

/-- A wrong width and a wrong alignment. -/
theorem witness_WrongAccessesChangeNothing :
    ((0 < 0x200 ∧ ((8 : Nat) ≠ 32 ∨ (0 : Nat) % 4 ≠ 0)) ∧
      (turnNext (.busRead 0 8) State.reset).schedule = [.busRead 0 8]) ∧
    ((0x1FF < 0x200 ∧ ((32 : Nat) ≠ 32 ∨ 0x1FF % 4 ≠ 0)) ∧
      (turnNext (.busWrite 0x1FF 32 0#32) State.reset).schedule = [.busWrite 0x1FF 32 0#32]) := by decide

theorem witness_InterruptFollowsCompletion :
    (busyTurn (.busWrite 0x008 32 2#32)).schedule = [.busWrite 0x008 32 2#32] ∧ (2#32).getLsbD 1 = true ∧
    ((busyTurn (.busWrite 0x004 32 0#32)).schedule = [.busWrite 0x004 32 0#32] ∧ (0#32).getLsbD 0 = false) ∧
    (turnNext (.busWrite 0x00C 32 0#32) State.reset).busy = false ∧
    (turnNext .hardReset State.reset).schedule = [.hardReset] ∧
    ((busyTurn (.busWrite 0x004 32 3#32)).schedule = [.busWrite 0x004 32 3#32] ∧ (3#32).getLsbD 1 = true ∧
      (3#32).getLsbD 0 = true) ∧
    (turnNext (.busWrite 0x004 32 1#32) (hamming ⟨0, 0⟩ ⟨0, 0⟩)).done = true := by decide

theorem witness_EveryStepKeepsInvariant :
    (withRow ⟨7, 1, 6, 3⟩).Inv ∧ (inFlight 0x12#32).Inv ∧ ∃ t, step (inFlight 0x12#32) = .next t :=
  ⟨by decide, by decide, _, rfl⟩

/-- A read, a lost CMD write and an IE write while a command is in flight. -/
theorem witness_InFlightCommandCannotBeDisturbed :
    (inFlight 0x12#32).busy = true ∧
    ∀ u ∈ [Turn.busRead 0x1FF 8, .busWrite 0x00C 32 0#32, .busWrite 0x004 32 1#32], harmless u := by
  refine ⟨rfl, ?_⟩
  simp only [List.mem_cons, List.not_mem_nil, or_false, forall_eq_or_imp, forall_eq]
  decide

theorem witness_InFlightCommandEnds :
    (busyTurn (.busRead 0x1FF 8)).busy = true ∧ ∀ u ∈ (busyTurn (.busRead 0x1FF 8)).schedule, safeTurn u := by
  refine ⟨rfl, ?_⟩
  simp only [busyTurn, List.mem_cons, List.not_mem_nil, or_false, forall_eq]
  decide

end Sys2Proof.Tests
end

section
/-! PROOFS. The carry-less product and the remainder as arithmetic of polynomials over GF(2) (00_scope R20): the
coefficients of a product, its linearity in the first operand, the degree of a product, and the uniqueness of the
remainder. -/

namespace Sys2Proof.Machine

/-- The degrees `j < n` at which the coefficient of `b` at `j` and that of `a` at `d - j` are both 1. -/
def clmulPairs (n a b d : Nat) : List Nat := (List.range n).filter fun j => a.testBit (d - j) && b.testBit j

theorem length_clmulPairs_succ (n a b d : Nat) :
    (clmulPairs (n + 1) a b d).length =
      (clmulPairs n a b d).length + if a.testBit (d - n) && b.testBit n then 1 else 0 := by
  simp only [clmulPairs, List.range_succ, List.filter_append, List.length_append, List.filter_singleton]
  cases a.testBit (d - n) && b.testBit n <;> rfl

theorem testBit_clmulBits_succ (n a b d : Nat) :
    (clmulBits (n + 1) a b).testBit d =
      ((clmulBits n a b).testBit d ^^ (decide (n ≤ d) && (a.testBit (d - n) && b.testBit n))) := by
  cases hb : b.testBit n <;> simp [clmulBits, hb, Nat.testBit_shiftLeft]

/-- Only the summands of shift at most `d` reach coefficient `d`. -/
theorem testBit_clmulBits_of_lt {n d : Nat} (a b : Nat) (h : d < n) :
    (clmulBits n a b).testBit d = (clmulBits (d + 1) a b).testBit d := by
  induction n, h using Nat.le_induction with
  | base => rfl
  | succ n hn ih => simp [testBit_clmulBits_succ n, ih, show ¬ n ≤ d by omega]

/-- Below shift `d + 1` each summand flips coefficient `d` exactly when its pair of coefficients is 1 and 1. -/
theorem testBit_clmulBits_of_le {n d : Nat} (a b : Nat) (h : n ≤ d + 1) :
    (clmulBits n a b).testBit d = decide ((clmulPairs n a b d).length % 2 = 1) := by
  induction n with
  | zero => simp [clmulBits, clmulPairs]
  | succ n ih =>
    rw [testBit_clmulBits_succ, ih (by omega), length_clmulPairs_succ]
    cases a.testBit (d - n) && b.testBit n
    · simp
    · rcases Nat.mod_two_eq_zero_or_one (clmulPairs n a b d).length with h2 | h2 <;>
        simp [h2, Nat.add_mod, show n ≤ d by omega]

theorem testBit_clmul (a b d : Nat) :
    (clmul a b).testBit d = decide ((clmulPairs (d + 1) a b d).length % 2 = 1) := by
  have hb : b < 2 ^ (b.log2 + 1 + (d + 1)) :=
    Nat.lt_of_lt_of_le Nat.lt_log2_self (Nat.pow_le_pow_right (by omega) (by omega))
  rw [clmul_eq_clmulBits hb, testBit_clmulBits_of_lt a b (by omega), testBit_clmulBits_of_le a b le_rfl]

theorem clmulBits_xor_left (n a a' b : Nat) :
    clmulBits n (a ^^^ a') b = clmulBits n a b ^^^ clmulBits n a' b := by
  induction n with
  | zero => simp [clmulBits]
  | succ n ih =>
    cases hb : b.testBit n
    · simp [clmulBits, hb, ih]
    · simp only [clmulBits, hb, if_true, ih, Nat.shiftLeft_xor_distrib]
      ac_rfl

theorem clmul_xor_left (a a' b : Nat) : clmul (a ^^^ a') b = clmul a b ^^^ clmul a' b :=
  clmulBits_xor_left _ a a' b

@[simp] theorem clmul_zero_left (b : Nat) : clmul 0 b = 0 := by
  simpa using clmul_xor_left 0 0 b

theorem clmulBits_shiftLeft_left (n a k b : Nat) : clmulBits n (a <<< k) b = clmulBits n a b <<< k := by
  induction n with
  | zero => simp [clmulBits]
  | succ n ih =>
    cases hb : b.testBit n
    · simp [clmulBits, hb, ih]
    · simp [clmulBits, hb, ih, Nat.shiftLeft_xor_distrib, ← Nat.shiftLeft_add, Nat.add_comm]

theorem clmul_shiftLeft_left (a k b : Nat) : clmul (a <<< k) b = clmul a b <<< k :=
  clmulBits_shiftLeft_left _ a k b

/-- Each summand of the product by 1 is one bit of `b`, at its own place. -/
theorem clmulBits_one_left (n b : Nat) : clmulBits n 1 b = b % 2 ^ n := by
  induction n with
  | zero => simp [clmulBits, Nat.mod_one]
  | succ n ih =>
    apply Nat.eq_of_testBit_eq
    intro i
    rw [testBit_clmulBits_succ, ih, Nat.testBit_mod_two_pow, Nat.testBit_mod_two_pow]
    rcases Nat.lt_trichotomy i n with hi | rfl | hi
    · simp [hi, show ¬ n ≤ i by omega, show i < n + 1 by omega]
    · simp
    · have hone : Nat.testBit 1 (i - n) = false := Nat.testBit_lt_two_pow (Nat.one_lt_two_pow (by omega))
      simp [show ¬ i < n by omega, show ¬ i < n + 1 by omega, hone]

@[simp] theorem clmul_one_left (b : Nat) : clmul 1 b = b := by
  rw [clmul, clmulBits_one_left, Nat.mod_eq_of_lt Nat.lt_log2_self]

/-- The leading coefficients meet in the last summand; every earlier one ends below it. -/
theorem testBit_clmul_log2_add_log2 {q b : Nat} (hq : q ≠ 0) (hb : b ≠ 0) :
    (clmul q b).testBit (q.log2 + b.log2) = true := by
  have hlow : clmulBits b.log2 q b < 2 ^ (q.log2 + b.log2) := by
    rcases clmulBits_lt (n := b.log2) (b := b) (Nat.lt_log2_self (n := q)) with h | h | h
    · rwa [show q.log2 + 1 + b.log2 - 1 = q.log2 + b.log2 by omega] at h
    · rw [h]
      exact Nat.two_pow_pos _
    · exact absurd h hq
  rw [clmul, testBit_clmulBits_succ, Nat.testBit_lt_two_pow hlow]
  simp [Nat.testBit_log2, hq, hb]

theorem eq_zero_of_clmul_lt {q b : Nat} (hb : b ≠ 0) (h : clmul q b < 2 ^ b.log2) : q = 0 := by
  by_contra hq
  have hlt : clmul q b < 2 ^ (q.log2 + b.log2) := Nat.lt_of_lt_of_le h (Nat.pow_le_pow_right (by omega) (by omega))
  exact absurd (testBit_clmul_log2_add_log2 hq hb) (by simp [Nat.testBit_lt_two_pow hlt])

/-- Each round of the division takes a shift of the divisor away, and the shifts add up to a multiple. -/
theorem exists_clmodLoop_eq (fuel a b : Nat) : ∃ q, a = clmul q b ^^^ clmodLoop fuel a b := by
  induction fuel generalizing a with
  | zero => exact ⟨0, by simp [clmodLoop]⟩
  | succ fuel ih =>
    rw [clmodLoop]
    split
    · obtain ⟨q, hq⟩ := ih (a ^^^ b <<< (a.log2 - b.log2))
      refine ⟨q ^^^ 1 <<< (a.log2 - b.log2), ?_⟩
      rw [clmul_xor_left, clmul_shiftLeft_left, clmul_one_left, Nat.xor_right_comm, ← hq, Nat.xor_xor_cancel_right]
    · exact ⟨0, by simp⟩

/-- The defining equation of the division (00_scope R20); `clmod_lt` is its bound on the remainder. -/
theorem exists_eq_clmul_xor_clmod (a b : Nat) : ∃ q, a = clmul q b ^^^ clmod a b :=
  exists_clmodLoop_eq (a.log2 + 1) a b

/-- The XOR of two remainders of one dividend is a multiple of the divisor, and of lower degree: it is 0. -/
theorem remainder_unique {b q q' c c' : Nat} (hb : b ≠ 0) (hc : c < 2 ^ b.log2) (hc' : c' < 2 ^ b.log2)
    (h : clmul q b ^^^ c = clmul q' b ^^^ c') : c = c' := by
  have hdiff : clmul (q ^^^ q') b = c ^^^ c' := by
    have hc_eq : c = clmul q b ^^^ (clmul q' b ^^^ c') := by rw [← h, Nat.xor_xor_cancel_left]
    rw [clmul_xor_left, hc_eq, ← Nat.xor_assoc, Nat.xor_xor_cancel_right]
  have hq : q ^^^ q' = 0 := eq_zero_of_clmul_lt hb (hdiff ▸ Nat.xor_lt_two_pow hc hc')
  rw [hq, clmul_zero_left] at hdiff
  exact Nat.xor_eq_zero_iff.1 hdiff.symm

end Sys2Proof.Machine

namespace Sys2Proof.Proofs

open Sys2Proof.Machine

/-- Settles O3: the coefficients of a product, counted over the bits of `b` below any bound. -/
theorem clmulIsPolynomialProduct : Obligations.ClmulIsPolynomialProduct := by
  unfold Obligations.ClmulIsPolynomialProduct
  exact testBit_clmul

/-- Settles O6: the remainder `clmod` leaves and the given one belong to one dividend. -/
theorem remainderIsUnique : Obligations.RemainderIsUnique := by
  unfold Obligations.RemainderIsUnique
  intro a b q c hb ha hc
  have hlt : c < 2 ^ b.log2 := by
    rcases hc with rfl | hc
    · exact Nat.two_pow_pos _
    · exact Nat.lt_of_lt_of_le Nat.lt_log2_self (Nat.pow_le_pow_right (by omega) hc)
  obtain ⟨q', hq'⟩ := exists_eq_clmul_xor_clmod a b
  exact remainder_unique hb (clmod_lt hb a) hlt (hq'.symm.trans ha)

end Sys2Proof.Proofs
end

section
/-! PROOFS. What a completing command keeps and what it may write: the host's side always stays, the vector registers
but its destination stay, the parameter registers and DSTAT stay unless the command is one of those that write them
(10_state R37, R39, R50). -/

namespace Sys2Proof.Machine

/-- The commands that write the parameter registers on success (10_state R50). -/
abbrev WritesSession (i : Instr) : Prop :=
  (∃ k, i = .rslvH k) ∨ (∃ k x, i = .rslvBch k x) ∨ i = .clrp ∨ ∃ rd m, i = .synCyc rd m

/-- The commands that write DSTAT on success (10_state R39). -/
abbrev WritesDstat (i : Instr) : Prop := (∃ rd ra rb c, i = .decCyc rd ra rb c) ∨ ∃ rd ra, i = .decMat rd ra

theorem eq_complete_of_exec {i : Instr} {s t : State} (h : exec i s = .next t) : t = s.complete (effectOf i s) := by
  rw [exec_eq_complete] at h
  cases h
  rfl

theorem State.keepsHostSide_complete (s : State) (e : Effect) : KeepsHostSide s (s.complete e) := by
  cases e <;> simp [KeepsHostSide]

/-- The parameter registers change only by a success whose writes name them. -/
theorem ok_of_params_complete_ne {s : State} {e : Effect} (h : (s.complete e).params ≠ s.params) :
    ∃ w, e = .ok w ∧ w.params ≠ none := by
  cases e with
  | error c => exact absurd rfl h
  | ok w => exact ⟨w, rfl, fun hn => h (by simp [hn])⟩

/-- DSTAT changes only by a success whose writes name it. -/
theorem ok_of_dstat_complete_ne {s : State} {e : Effect} (h : (s.complete e).dstat ≠ s.dstat) :
    ∃ w, e = .ok w ∧ w.dstat ≠ none := by
  cases e with
  | error c => exact absurd rfl h
  | ok w => exact ⟨w, rfl, fun hn => h (by simp [hn])⟩

/-- A command that leaves ERR = 0 has succeeded. -/
theorem effectOf_ok_of_err {i : Instr} {s : State} (h : (s.complete (effectOf i s)).err = .ok) :
    ∃ w, effectOf i s = .ok w := by
  cases he : effectOf i s with
  | ok w => exact ⟨w, rfl⟩
  | error c =>
    rw [he] at h
    exact absurd h (effectOf_error_code he).1

section
variable {i : Instr} {s t : State} (h : exec i s = .next t)
include h

theorem exec_keepsHostSide : KeepsHostSide s t := by
  rw [eq_complete_of_exec h]
  exact s.keepsHostSide_complete _

theorem writesSession_of_params_ne (hp : t.params ≠ s.params) : t.err = .ok ∧ WritesSession i := by
  rw [eq_complete_of_exec h] at hp ⊢
  obtain ⟨w, hw, hn⟩ := ok_of_params_complete_ne hp
  obtain ⟨-, hsession, -⟩ := effectOf_ok_shape hw
  exact ⟨by simp [hw], hsession hn⟩

theorem writesDstat_of_dstat_ne (hd : t.dstat ≠ s.dstat) : t.err = .ok ∧ WritesDstat i := by
  rw [eq_complete_of_exec h] at hd ⊢
  obtain ⟨w, hw, hn⟩ := ok_of_dstat_complete_ne hd
  obtain ⟨-, -, hdstat⟩ := effectOf_ok_shape hw
  exact ⟨by simp [hw], hdstat hn⟩

theorem exec_keeps_params (hi : ¬ WritesSession i) : t.params = s.params := by
  by_contra hp
  exact hi (writesSession_of_params_ne h hp).2

theorem exec_keeps_dstat (hi : ¬ WritesDstat i) : t.dstat = s.dstat := by
  by_contra hd
  exact hi (writesDstat_of_dstat_ne h hd).2

theorem exec_keepsVectorsBut {rd : VIdx} (hd : destination i = some rd) : KeepsVectorsBut s t rd := by
  intro j hj
  rw [eq_complete_of_exec h]
  cases he : effectOf i s with
  | error c => rfl
  | ok w =>
    obtain ⟨hvec, -, -⟩ := effectOf_ok_shape he
    rw [hd, Option.map_eq_some_iff] at hvec
    obtain ⟨⟨rd, a⟩, hw, rfl⟩ := hvec
    calc (s.succeed w).vreg j = (s.writeVec w.vec).vreg j := rfl
      _ = (s.setVec rd a).vreg j := by rw [hw]; rfl
      _ = s.vreg j := s.vreg_setVec_ne a hj

theorem exec_keeps_vregs (hd : destination i = none) : t.vregs = s.vregs := by
  rw [eq_complete_of_exec h]
  cases he : effectOf i s with
  | error c => rfl
  | ok w =>
    obtain ⟨hvec, -, -⟩ := effectOf_ok_shape he
    rw [hd, Option.map_eq_none_iff] at hvec
    simp [hvec]

/-- A command with a destination that writes neither the parameter registers nor DSTAT changes no more than its
destination's vector register and the result. -/
theorem exec_keeps_all_but_destination {rd : VIdx} (hd : destination i = some rd) (hp : ¬ WritesSession i)
    (hs : ¬ WritesDstat i) :
    KeepsVectorsBut s t rd ∧ t.params = s.params ∧ t.dstat = s.dstat ∧ KeepsHostSide s t :=
  ⟨exec_keepsVectorsBut h hd, exec_keeps_params h hp, exec_keeps_dstat h hs, exec_keepsHostSide h⟩

/-- A command with no destination that does not write DSTAT keeps the vector registers and DSTAT. -/
theorem exec_keeps_vregs_dstat (hd : destination i = none) (hs : ¬ WritesDstat i) :
    t.vregs = s.vregs ∧ t.dstat = s.dstat ∧ KeepsHostSide s t :=
  ⟨exec_keeps_vregs h hd, exec_keeps_dstat h hs, exec_keepsHostSide h⟩

end

/-- A success of SYN.CYC widens the session (43 R172). -/
theorem synCycEffect_ok {cfg : Config.Tables} {p : Params} {rd : VIdx} {wmin : Nat} {w : Writes}
    (h : synCycEffect cfg p rd wmin = .ok w) :
    p.mode = .formula ∧ ∃ r v, searchDegrees wmin p.k.toNat (cfg.genMaxDegree + 1 - p.r.toNat) p.r.toNat = some (r, v) ∧
      w.params = some (widenedSession p r) := by
  unfold synCycEffect at h
  split at h
  · cases h
  · rename_i hmode
    split at h
    · rename_i r v hsearch
      cases h
      exact ⟨not_not.1 hmode, r, v, hsearch, rfl⟩
    · cases h

/-- SYN.CYC writes PR, PN and PH alone among the parameter registers (43 R172). -/
theorem execSynCyc_keeps_params {rd : VIdx} {m : Nat} {s t : State} (h : exec (.synCyc rd m) s = .next t) :
    t.params.k = s.params.k ∧ t.params.s = s.params.s ∧ t.params.kreq = s.params.kreq ∧
      t.params.mode = s.params.mode := by
  rw [eq_complete_of_exec h]
  cases he : effectOf (.synCyc rd m) s with
  | error c => exact ⟨rfl, rfl, rfl, rfl⟩
  | ok w =>
    obtain ⟨-, r, v, -, hw⟩ := synCycEffect_ok he
    simp [hw, widenedSession]

/-- The decode statuses of DEC.CYC (45 R211). -/
theorem decCycEffect_dstat {rd : VIdx} {w g : BVec} {c : Nat} {x : Writes} (h : decCycEffect rd w g c = .ok x) :
    x.dstat = some .noError ∨ x.dstat = some .corrected ∨ x.dstat = some .uncorrectable := by
  unfold decCycEffect at h
  split at h
  · cases h
  · split at h
    · cases h
    · split at h
      · cases h
        exact .inl rfl
      · split at h <;> cases h
        · exact .inr (.inl rfl)
        · exact .inr (.inr rfl)

/-- The decode statuses of DEC.MAT (45 R212). -/
theorem decMatEffect_dstat {p : Params} {rd : VIdx} {w : BVec} {x : Writes} (h : decMatEffect p rd w = .ok x) :
    x.dstat = some .noError ∨ x.dstat = some .corrected ∨ x.dstat = some .undeterminedError := by
  simp only [decMatEffect] at h
  split at h
  · cases h
  · split at h
    · cases h
    · split at h
      · cases h
        exact .inl rfl
      · split at h <;> cases h
        · exact .inr (.inl rfl)
        · exact .inr (.inr rfl)

end Sys2Proof.Machine

namespace Sys2Proof.Proofs

open Sys2Proof.Machine

/-- Settles O31: a change of DSTAT is a decoder's success, whose status its rule gives. -/
theorem onlyDecodersWriteDstat : Obligations.OnlyDecodersWriteDstat := by
  unfold Obligations.OnlyDecodersWriteDstat
  refine ⟨⟨rfl, rfl, rfl, rfl, rfl, rfl⟩, fun i s t h => ⟨writesDstat_of_dstat_ne h, ?_, ?_⟩⟩
  · rintro ⟨rd, ra, rb, c, rfl⟩ hok
    rw [eq_complete_of_exec h] at hok ⊢
    obtain ⟨w, hw⟩ := effectOf_ok_of_err hok
    rcases decCycEffect_dstat hw with hd | hd | hd <;> simp [hw, hd]
  · rintro ⟨rd, ra, rfl⟩ hok
    rw [eq_complete_of_exec h] at hok ⊢
    obtain ⟨w, hw⟩ := effectOf_ok_of_err hok
    rcases decMatEffect_dstat hw with hd | hd | hd <;> simp [hw, hd]

/-- Settles O44: each group has one frame, read off the shape of a success. -/
theorem commandsWriteOnlyTheirDestination : Obligations.CommandsWriteOnlyTheirDestination := by
  unfold Obligations.CommandsWriteOnlyTheirDestination
  intro s t rd ra rb x y
  refine ⟨fun h => ?_, fun h => ?_, fun h => ?_, fun h => ?_, fun h => ?_⟩
  · rcases h with h | h | h | h | h | h | h | h | h | h | h | h | h | h <;>
      exact exec_keeps_all_but_destination h rfl (by simp) (by simp)
  · rcases h with h | h <;>
      exact ⟨exec_keepsVectorsBut h rfl, exec_keeps_params h (by simp), exec_keepsHostSide h⟩
  · exact ⟨exec_keepsVectorsBut h rfl, exec_keeps_dstat h (by simp), exec_keepsHostSide h, execSynCyc_keeps_params h⟩
  · obtain ⟨hvregs, hdstat, hhost⟩ := exec_keeps_vregs_dstat h rfl (by simp)
    exact ⟨hvregs, exec_keeps_params h (by simp), hdstat, hhost⟩
  · rcases h with h | h | h <;> exact exec_keeps_vregs_dstat h rfl (by simp)

end Sys2Proof.Proofs
end

section
/-! PROOFS. The host's side of the register window: where the vector fields lie, what a write of each register leaves,
the two halves of DATA, and the layout of STATUS and CTRL (10_state R32, R36, R38, 20_memory R71). -/

namespace Sys2Proof.Machine

theorem regAt_vlen (i : VIdx) : regAt (0x100 + 0x10 * i.val) = .vlen i := by
  revert i; decide

theorem regAt_vdlo (i : VIdx) : regAt (0x104 + 0x10 * i.val) = .vdlo i := by
  revert i; decide

theorem regAt_vdhi (i : VIdx) : regAt (0x108 + 0x10 * i.val) = .vdhi i := by
  revert i; decide

/-- CTRL has one place in the window (20_memory R71). -/
theorem regAt_eq_ctrl {off : Nat} (h : regAt off = .ctrl) : off = 0x004 := by
  unfold regAt at h
  split at h
  · split at h <;> cases h
  · split at h
    case h_2 => rfl
    all_goals cases h

theorem popped_eq {s : State} {u : Turn} {rest : List Turn} (h : s.schedule = u :: rest) :
    s.popped = { s with schedule := rest } := by
  simp [State.popped, h]

/-- A word write of a register of the window is answered normally (20_memory R73). -/
theorem step_busWrite {s : State} {off : Nat} {v : Word} {rest : List Turn}
    (h : s.schedule = .busWrite off 32 v :: rest) (hoff : off < 0x200) (halign : off % 4 = 0) :
    step s = .next { State.writeReg { s with schedule := rest } (regAt off) v with lastResponse := .writeDone } := by
  rw [step_turn h, popped_eq h]
  simp [turn, busWrite, accepted, halign, Nat.not_le.2 hoff]

/-- While no command is in flight the interlock lets a write through (70 R284). -/
theorem interlocked_idle {s : State} (h : s.busy = false) (f : State → State) : s.interlocked f = f s := by
  simp [State.interlocked, h]

/-- A CTRL write with bit 1 = 0 (10_state R32). -/
theorem writeReg_ctrl_of_no_reset (s : State) {v : Word} (h : v.getLsbD 1 = false) :
    s.writeReg .ctrl v = { s with ie := v.getLsbD 0 } :=
  if_neg (by rw [h]; exact Bool.false_ne_true)

section
variable {s : State} (h : s.busy = false) (i : VIdx) (v : Word)
include h

theorem writeReg_vlen_idle : s.writeReg (.vlen i) v = s.setVreg i ((s.vreg i).setLen v) := by
  rw [State.writeReg, interlocked_idle h]

theorem writeReg_vdlo_idle : s.writeReg (.vdlo i) v = s.setVreg i ((s.vreg i).setLow v) := by
  rw [State.writeReg, interlocked_idle h]

theorem writeReg_vdhi_idle : s.writeReg (.vdhi i) v = s.setVreg i ((s.vreg i).setHigh v) := by
  rw [State.writeReg, interlocked_idle h]

end

/-- What a host write of one vector register changes of the state (20_memory R71). -/
theorem step_busWrite_vreg {s : State} {off : Nat} {v : Word} {rest : List Turn} {i : VIdx} {x : VReg}
    (h : s.schedule = .busWrite off 32 v :: rest) (hoff : off < 0x200) (halign : off % 4 = 0)
    (hw : State.writeReg { s with schedule := rest } (regAt off) v = State.setVreg { s with schedule := rest } i x) :
    ∃ t, step s = .next t ∧ t.vreg i = x ∧ KeepsVectorsBut s t i ∧
      t = { s with vregs := t.vregs, schedule := rest, lastResponse := .writeDone } := by
  refine ⟨_, step_busWrite h hoff halign, ?_, ?_, ?_⟩
  · rw [hw]
    exact State.vreg_setVreg_same _ i x
  · intro j hj
    rw [hw]
    exact State.vreg_setVreg_ne _ x hj
  · rw [hw]
    rfl

/-- A write of DLO sets the low half of DATA and keeps the high one (10_state R36). -/
theorem VReg.data_setLow (r : VReg) (v : Word) :
    (r.setLow v).data.extractLsb' 0 32 = v ∧ (r.setLow v).data.extractLsb' 32 32 = r.data.extractLsb' 32 32 :=
  ⟨BitVec.extractLsb'_append_eq_right, BitVec.extractLsb'_append_eq_left⟩

/-- A write of DHI sets the high half of DATA and keeps the low one (10_state R36). -/
theorem VReg.data_setHigh (r : VReg) (v : Word) :
    (r.setHigh v).data.extractLsb' 32 32 = v ∧ (r.setHigh v).data.extractLsb' 0 32 = r.data.extractLsb' 0 32 :=
  ⟨BitVec.extractLsb'_append_eq_left, BitVec.extractLsb'_append_eq_right⟩

theorem ErrCode.code_le (c : ErrCode) : c.code ≤ 10 := by
  cases c <;> decide

theorem DStat.code_le (d : DStat) : d.code ≤ 4 := by
  cases d <;> decide

/-- The fields of STATUS fit their places: the sum that packs them never wraps (10_state R38). -/
theorem State.toNat_statusWord (s : State) :
    s.statusWord.toNat =
      s.busy.toNat + s.done.toNat * 2 ^ 1 + s.ovr.toNat * 2 ^ 2 + s.err.code * 2 ^ 8 + s.dstat.code * 2 ^ 16 := by
  have hbusy := s.busy.toNat_le
  have hdone := s.done.toNat_le
  have hovr := s.ovr.toNat_le
  have herr := s.err.code_le
  have hdstat := s.dstat.code_le
  simp only [State.statusWord, BitVec.toNat_ofNat]
  omega

theorem State.toNat_ctrlWord (s : State) : s.ctrlWord.toNat = s.ie.toNat := by
  have hie := s.ie.toNat_le
  simp only [State.ctrlWord, BitVec.toNat_ofNat]
  omega

theorem getLsbD_eq_of_toNat {w : Word} {i : Nat} {b : Bool} (h : w.toNat / 2 ^ i % 2 = b.toNat) : w.getLsbD i = b := by
  rw [← BitVec.testBit_toNat, Nat.testBit_eq_decide_div_mod_eq, h]
  cases b <;> rfl

theorem toNat_extract (w : Word) (lo width : Nat) :
    (w.extractLsb' lo width).toNat = w.toNat / 2 ^ lo % 2 ^ width := by
  rw [BitVec.extractLsb'_toNat, Nat.shiftRight_eq_div_pow]

theorem extract_eq_zero {w : Word} {lo width : Nat} (h : w.toNat / 2 ^ lo % 2 ^ width = 0) :
    w.extractLsb' lo width = 0#width :=
  BitVec.eq_of_toNat_eq (by rw [toNat_extract, h, BitVec.toNat_zero])

theorem State.statusWord_layout (s : State) :
    s.statusWord.getLsbD 0 = s.busy ∧ s.statusWord.getLsbD 1 = s.done ∧ s.statusWord.getLsbD 2 = s.ovr ∧
      s.statusWord.extractLsb' 3 5 = 0#5 ∧ (s.statusWord.extractLsb' 8 8).toNat = s.err.code ∧
      (s.statusWord.extractLsb' 16 3).toNat = s.dstat.code ∧ s.statusWord.extractLsb' 19 13 = 0#13 := by
  have hword := s.toNat_statusWord
  have hbusy := s.busy.toNat_le
  have hdone := s.done.toNat_le
  have hovr := s.ovr.toNat_le
  have herr := s.err.code_le
  have hdstat := s.dstat.code_le
  refine ⟨getLsbD_eq_of_toNat ?_, getLsbD_eq_of_toNat ?_, getLsbD_eq_of_toNat ?_, extract_eq_zero ?_,
    (toNat_extract _ _ _).trans ?_, (toNat_extract _ _ _).trans ?_, extract_eq_zero ?_⟩ <;> omega

theorem State.ctrlWord_layout (s : State) : s.ctrlWord.getLsbD 0 = s.ie ∧ s.ctrlWord.extractLsb' 1 31 = 0#31 := by
  have hword := s.toNat_ctrlWord
  have hie := s.ie.toNat_le
  exact ⟨getLsbD_eq_of_toNat (by omega), extract_eq_zero (by omega)⟩

end Sys2Proof.Machine

namespace Sys2Proof.Proofs

open Sys2Proof.Machine

/-- Settles O48: the reset state is a literal, and a reset copies the configuration. -/
theorem resetState : Obligations.ResetState := by
  unfold Obligations.ResetState
  refine ⟨rfl, rfl, rfl, rfl, rfl, ⟨rfl, rfl, rfl, rfl, rfl, rfl, rfl⟩, ?_, rfl, rfl, State.tables_resetCore⟩
  intro i
  exact Vector.getElem_replicate i.isLt

/-- Settles O51: the packed fields are read back by division. -/
theorem statusAndControlLayout : Obligations.StatusAndControlLayout := by
  unfold Obligations.StatusAndControlLayout
  exact ⟨⟨rfl, rfl, rfl, rfl, rfl, rfl, rfl, rfl, rfl, rfl, rfl⟩, fun s => ⟨s.statusWord_layout, s.ctrlWord_layout⟩⟩

/-- Settles O50: neither write goes through the interlock. -/
theorem controlAndStatusWrites : Obligations.ControlAndStatusWrites := by
  unfold Obligations.ControlAndStatusWrites
  intro s rest v
  refine ⟨fun h hv => ?_, fun h => ?_⟩
  · rw [step_busWrite h (by decide) rfl, show regAt 0x004 = .ctrl from rfl, writeReg_ctrl_of_no_reset _ hv]
  · exact ⟨_, step_busWrite h (by decide) rfl, rfl, rfl, rfl⟩

/-- Settles O54: the three fields are three writes of one vector register. -/
theorem hostVectorWrites : Obligations.HostVectorWrites := by
  unfold Obligations.HostVectorWrites
  intro s rest i v hidle
  have hi := i.isLt
  refine ⟨fun h => ?_, fun h => ?_, fun h => ?_⟩
  · obtain ⟨t, hstep, hreg, hothers, ht⟩ := step_busWrite_vreg (x := (s.vreg i).setLen v) h (by omega) (by omega)
      (by rw [regAt_vlen]; exact writeReg_vlen_idle (s := { s with schedule := rest }) hidle i v)
    exact ⟨t, hstep, by rw [hreg]; rfl, by rw [hreg]; rfl, hothers, ht⟩
  · obtain ⟨t, hstep, hreg, hothers, ht⟩ := step_busWrite_vreg (x := (s.vreg i).setLow v) h (by omega) (by omega)
      (by rw [regAt_vdlo]; exact writeReg_vdlo_idle (s := { s with schedule := rest }) hidle i v)
    obtain ⟨hlow, hhigh⟩ := (s.vreg i).data_setLow v
    exact ⟨t, hstep, by rw [hreg]; rfl, by rw [hreg, hlow], by rw [hreg, hhigh], hothers, ht⟩
  · obtain ⟨t, hstep, hreg, hothers, ht⟩ := step_busWrite_vreg (x := (s.vreg i).setHigh v) h (by omega) (by omega)
      (by rw [regAt_vdhi]; exact writeReg_vdhi_idle (s := { s with schedule := rest }) hidle i v)
    obtain ⟨hhigh, hlow⟩ := (s.vreg i).data_setHigh v
    exact ⟨t, hstep, by rw [hreg]; rfl, by rw [hreg, hhigh], by rw [hreg, hlow], hothers, ht⟩

end Sys2Proof.Proofs
end

section
/-! PROOFS. What a step does to the session: where the parameter registers can change, and that each change leaves one
consistent record, so that every step keeps the invariant (10_state R42 to R50, 60_exceptions R250, 70 R283). -/

namespace Sys2Proof.Machine

theorem toNat_wordOf_of_le {x : Nat} (h : x ≤ Config.W) : (wordOf x).toNat = x :=
  toNat_wordOf (lt_of_le_of_lt h (by decide))

theorem toNat_wordOf_clog2 {x : Nat} (h : x ≤ Config.W) : (wordOf (clog2 x)).toNat = clog2 x := by
  have hle : clog2 x ≤ 6 := clog2_le_iff.2 h
  exact toNat_wordOf_of_le (hle.trans (by decide))

/-- The formula resolver always adds redundancy (42 R151). -/
theorem one_le_hammingRedundancy {k : Nat} (hk : k ≠ 0) : 1 ≤ hammingRedundancy k := by
  by_contra h
  have hle : hammingRedundancy k ≤ 0 := by omega
  have := clog2_le_iff.1 hle
  omega

theorem noSession_wf (cfg : Config.Tables) : Params.noSession.wf cfg := by
  simp [Params.wf, Params.noSession]

/-- RSLV.H starts a consistent session (42 R151). -/
theorem formulaSession_wf (cfg : Config.Tables) {k : Nat} (hk : k ≠ 0) (hW : k + hammingRedundancy k + 1 ≤ Config.W) :
    (formulaSession k).wf cfg := by
  have hr := one_le_hammingRedundancy hk
  have hkw : (wordOf k).toNat = k := toNat_wordOf_of_le (by omega)
  have hrw : (wordOf (hammingRedundancy k)).toNat = hammingRedundancy k := toNat_wordOf_of_le (by omega)
  have hnw : (wordOf (k + hammingRedundancy k)).toNat = k + hammingRedundancy k := toNat_wordOf_of_le (by omega)
  simp only [Params.wf, formulaSession, hkw, hrw, hnw, toNat_wordOf_clog2 hW]
  exact ⟨nofun, fun _ => ⟨by omega, trivial, hW, trivial, by omega, le_rfl⟩, fun _ => ⟨hr, rfl, trivial⟩, nofun⟩

/-- RSLV.BCH starts a consistent session from a well-formed entry of the table (42 R153, 00_scope R10). -/
theorem bchSession_wf {cfg : Config.Tables} {k : Nat} {e : Config.BchEntry} (he : e ∈ cfg.bchTable) (hwf : e.wf)
    (hk : k ≠ 0) (hle : k ≤ e.k) : (bchSession k e).wf cfg := by
  obtain ⟨hn, hk1, -, hW⟩ := hwf
  have hkw : (wordOf e.k).toNat = e.k := toNat_wordOf_of_le (by omega)
  have hrw : (wordOf e.r).toNat = e.r := toNat_wordOf_of_le (by omega)
  have hnw : (wordOf e.n).toNat = e.n := toNat_wordOf_of_le (by omega)
  have hqw : (wordOf k).toNat = k := toNat_wordOf_of_le (by omega)
  simp only [Params.wf, bchSession, hkw, hrw, hnw, hqw, toNat_wordOf_clog2 hW]
  refine ⟨nofun, fun _ => ⟨hk1, hn, hW, trivial, by omega, hle⟩, nofun, fun _ => ⟨e, he, rfl, rfl, rfl, ?_⟩⟩
  exact BitVec.toNat_ofNat _ _

/-- The search of SYN.CYC answers a degree from its start upward that still fits (43 R172). -/
theorem searchDegrees_some {wmin k r v : Nat} :
    ∀ {rounds r₀ : Nat}, searchDegrees wmin k rounds r₀ = some (r, v) → r₀ ≤ r ∧ k + r + 1 ≤ Config.W := by
  intro rounds
  induction rounds with
  | zero => intro r₀ h; cases h
  | succ rounds ih =>
    intro r₀ h
    rw [searchDegrees] at h
    split at h
    · cases h
    · rename_i hfits
      split at h
      · cases h
        exact ⟨le_rfl, by omega⟩
      · obtain ⟨hle, hW⟩ := ih h
        exact ⟨by omega, hW⟩

/-- SYN.CYC widens a consistent formula session to a consistent one (43 R172). -/
theorem widenedSession_wf {cfg : Config.Tables} {p : Params} {r : Nat} (hp : p.wf cfg) (hmode : p.mode = .formula)
    (hr : p.r.toNat ≤ r) (hW : p.k.toNat + r + 1 ≤ Config.W) : (widenedSession p r).wf cfg := by
  obtain ⟨-, hsession, hformula, -⟩ := hp
  obtain ⟨hk, -, -, -, hq, hqk⟩ := hsession (by simp [hmode])
  obtain ⟨hr1, hs, hkreq⟩ := hformula hmode
  have hrw : (wordOf r).toNat = r := toNat_wordOf_of_le (by omega)
  have hnw : (wordOf (p.k.toNat + r)).toNat = p.k.toNat + r := toNat_wordOf_of_le (by omega)
  simp only [Params.wf, widenedSession, hmode, hrw, hnw, toNat_wordOf_clog2 hW]
  exact ⟨nofun, fun _ => ⟨hk, trivial, hW, trivial, hq, hqk⟩, fun _ => ⟨by omega, hs, hkreq⟩, nofun⟩

theorem rslvHEffect_ok {k : Nat} {w : Writes} (h : rslvHEffect k = .ok w) :
    k ≠ 0 ∧ k + hammingRedundancy k + 1 ≤ Config.W ∧ w.params = some (formulaSession k) := by
  unfold rslvHEffect at h
  split at h
  · cases h
  · rename_i hk
    split at h
    · cases h
    · rename_i hW
      cases h
      exact ⟨hk, not_lt.1 hW, rfl⟩

theorem rslvBchEffect_ok {cfg : Config.Tables} {k c : Nat} {w : Writes} (h : rslvBchEffect cfg k c = .ok w) :
    k ≠ 0 ∧ ∃ e ∈ cfg.bchTable, k ≤ e.k ∧ w.params = some (bchSession k e) := by
  unfold rslvBchEffect at h
  split at h
  · cases h
  · rename_i hk
    split at h
    · rename_i e hfirst
      cases h
      have hmatch := List.find?_some hfirst
      simp only [Bool.and_eq_true, decide_eq_true_eq] at hmatch
      exact ⟨hk, e, List.mem_of_find?_eq_some hfirst, hmatch.1, rfl⟩
    · cases h

/-- Every record a command writes into the parameter registers is consistent (10_state R42). -/
theorem effectOf_params_wf {i : Instr} {s : State} {w : Writes} {p : Params} (htables : s.tables.wf)
    (hparams : s.params.wf s.tables) (h : effectOf i s = .ok w) (hw : w.params = some p) : p.wf s.tables := by
  obtain ⟨-, hsession, -⟩ := effectOf_ok_shape h
  rcases hsession (by simp [hw]) with ⟨k, rfl⟩ | ⟨k, c, rfl⟩ | rfl | ⟨rd, m, rfl⟩
  · obtain ⟨hk, hW, he⟩ := rslvHEffect_ok h
    cases he.symm.trans hw
    exact formulaSession_wf s.tables hk hW
  · obtain ⟨hk, e, hmem, hle, he⟩ := rslvBchEffect_ok h
    cases he.symm.trans hw
    exact bchSession_wf hmem (htables.1 e hmem) hk hle
  · cases h
    cases hw
    exact noSession_wf s.tables
  · obtain ⟨hmode, r, v, hsearch, he⟩ := synCycEffect_ok h
    cases he.symm.trans hw
    obtain ⟨hr, hW⟩ := searchDegrees_some hsearch
    exact widenedSession_wf hparams hmode hr hW

/-- The word in flight succeeds only as a command. -/
theorem inFlightEffect_ok {s : State} {w : Writes} (h : inFlightEffect s = .ok w) :
    ∃ i, decode s.cmd = .ok i ∧ effectOf i s = .ok w := by
  unfold inFlightEffect at h
  split at h
  · rename_i i hi
    exact ⟨i, hi, h⟩
  · cases h

/-- Whatever word is in flight, it raises no reserved code (60_exceptions R250). -/
theorem inFlightEffect_error {s : State} {c : ErrCode} (h : inFlightEffect s = .error c) :
    c ≠ .positionError ∧ c ≠ .exceedsCapability := by
  unfold inFlightEffect at h
  split at h
  · obtain ⟨-, hposition, hcapability, -⟩ := effectOf_error_code h
    exact ⟨hposition, hcapability⟩
  · cases h
    decide

/-- Completing the command in flight keeps the invariant. -/
theorem inv_complete {s : State} (h : s.Inv) : (s.complete (inFlightEffect s)).Inv := by
  obtain ⟨htables, hparams, -, -, -⟩ := h
  cases he : inFlightEffect s with
  | error c => exact ⟨htables, hparams, nofun, inFlightEffect_error he⟩
  | ok w =>
    obtain ⟨i, -, hi⟩ := inFlightEffect_ok he
    simp only [State.complete_ok, State.Inv, State.tables_succeed, State.params_succeed, State.busy_succeed,
      State.err_succeed]
    refine ⟨htables, ?_, nofun, nofun, nofun⟩
    cases hw : w.params with
    | none => exact hparams
    | some p => exact effectOf_params_wf htables hparams hi hw

/-- A reset of CORE leaves the invariant's registers at their reset values. -/
theorem inv_resetCore {s : State} (h : s.tables.wf) : s.resetCore.Inv :=
  ⟨h, noSession_wf s.tables, nofun, nofun, nofun⟩

/-- A host write of any register keeps the invariant (10_state R32, R38, R50, 70 R283, R284). -/
theorem inv_writeReg {s : State} (h : s.Inv) (r : Reg) (v : Word) : (s.writeReg r v).Inv := by
  obtain ⟨htables, hparams, hflight, herr⟩ := h
  rcases writeReg_cases s r v with
    ⟨e, -, -⟩ | ⟨-, -, e⟩ | ⟨-, -, e⟩ | ⟨-, e⟩ | ⟨-, e⟩ | ⟨-, -, e⟩ | ⟨-, i, w, -, e⟩ <;> rw [e]
  · exact ⟨htables, hparams, hflight, herr⟩
  · exact inv_resetCore htables
  · exact ⟨htables, hparams, hflight, herr⟩
  · refine ⟨htables, hparams, fun hbusy => ?_, herr⟩
    obtain ⟨hdone, hok⟩ := hflight hbusy
    exact ⟨by simp [hdone], hok⟩
  · exact ⟨htables, hparams, hflight, herr⟩
  · exact ⟨htables, hparams, fun _ => ⟨rfl, rfl⟩, nofun, nofun⟩
  · exact ⟨htables, hparams, hflight, herr⟩

/-- A host write changes the parameter registers only as the soft reset (70 R281). -/
theorem writeReg_params_ne {s : State} {r : Reg} {v : Word} (h : (s.writeReg r v).params ≠ s.params) :
    r = .ctrl ∧ v.getLsbD 1 = true ∧ (s.writeReg r v).params = Params.noSession := by
  rcases writeReg_cases s r v with
    ⟨e, -, -⟩ | ⟨hr, hv, e⟩ | ⟨-, -, e⟩ | ⟨-, e⟩ | ⟨-, e⟩ | ⟨-, -, e⟩ | ⟨-, i, w, -, e⟩ <;> rw [e] at h ⊢
  case inr.inl => exact ⟨hr, hv, rfl⟩
  all_goals exact absurd rfl h

theorem tables_writeReg (s : State) (r : Reg) (v : Word) : (s.writeReg r v).tables = s.tables := by
  rcases writeReg_cases s r v with
    ⟨e, -, -⟩ | ⟨-, -, e⟩ | ⟨-, -, e⟩ | ⟨-, e⟩ | ⟨-, e⟩ | ⟨-, -, e⟩ | ⟨-, i, w, -, e⟩ <;> rw [e] <;> rfl

theorem tables_complete (s : State) (e : Effect) : (s.complete e).tables = s.tables := by
  cases e <;> simp

/-- No step changes the configuration (00_scope R12). -/
theorem step_keeps_tables {s t : State} (h : step s = .next t) : t.tables = s.tables := by
  rcases step_cases h with ⟨-, -, rfl⟩ | ⟨-, -, rfl⟩ | ⟨-, -, r, -, -, rfl⟩ | ⟨off, -, v, -, -, -, rfl⟩ |
    ⟨-, -, -, -, -, -, rfl⟩ | ⟨-, rfl⟩
  · rfl
  · exact tables_complete _ _
  · rfl
  · exact tables_writeReg _ _ _
  · rfl
  · rfl

theorem engineNext_of_state {s : State} (h : s.engineNext) : EngineNext s := by
  rcases h with h | ⟨rest, h⟩
  · exact .inl h
  · exact .inr (by simp [h])

end Sys2Proof.Machine

namespace Sys2Proof.Proofs

open Sys2Proof.Machine

/-- Settles O58: by the cases of a step, each of which keeps the invariant. -/
theorem everyStepKeepsInvariant : Obligations.EveryStepKeepsInvariant := by
  unfold Obligations.EveryStepKeepsInvariant
  intro s t h hstep
  have hpopped : s.popped.Inv := h
  rcases step_cases hstep with ⟨-, -, rfl⟩ | ⟨-, -, rfl⟩ | ⟨-, -, r, -, -, rfl⟩ | ⟨off, -, v, -, -, -, rfl⟩ |
    ⟨-, -, -, -, -, -, rfl⟩ | ⟨-, rfl⟩
  · exact hpopped
  · exact inv_complete hpopped
  · exact hpopped
  · exact inv_writeReg hpopped (regAt off) v
  · exact hpopped
  · exact inv_resetCore hpopped.1

/-- Settles O57: the reset state holds the default tables and no session. -/
theorem invariantHoldsAtReset : Obligations.InvariantHoldsAtReset := by
  unfold Obligations.InvariantHoldsAtReset
  have htables : Config.defaultTables.wf := by decide
  exact ⟨htables, noSession_wf Config.defaultTables, nofun, nofun, nofun⟩

/-- Settles O17: by the cases of a step; the engine changes the session through a command's success, the host through a
reset. -/
theorem parametersChangeOnlyByTheirCommands : Obligations.ParametersChangeOnlyByTheirCommands := by
  unfold Obligations.ParametersChangeOnlyByTheirCommands
  intro s t h
  refine ⟨step_keeps_tables h, fun hne => ?_⟩
  rcases step_cases h with ⟨-, -, rfl⟩ | ⟨hnext, hbusy, rfl⟩ | ⟨-, -, r, -, -, rfl⟩ |
    ⟨off, size, v, hhead, -, haccepted, rfl⟩ | ⟨-, -, -, -, -, -, rfl⟩ | ⟨hhead, rfl⟩
  case inr.inl =>
    obtain ⟨w, hw, hn⟩ := ok_of_params_complete_ne (s := s.popped) hne
    obtain ⟨i, hi, he⟩ := inFlightEffect_ok hw
    obtain ⟨-, hsession, -⟩ := effectOf_ok_shape he
    refine .inl ⟨engineNext_of_state hnext, hbusy, by simp [hw], ?_⟩
    have hdecode : decode s.cmd = .ok i := hi
    rcases hsession hn with ⟨k, rfl⟩ | ⟨k, c, rfl⟩ | rfl | ⟨rd, m, rfl⟩
    · exact .inl ⟨k, hdecode⟩
    · exact .inr (.inl ⟨k, c, hdecode⟩)
    · exact .inr (.inr (.inl hdecode))
    · exact .inr (.inr (.inr ⟨rd, m, hdecode⟩))
  case inr.inr.inr.inl =>
    obtain ⟨hctrl, hv, hcleared⟩ := writeReg_params_ne (s := s.popped) hne
    obtain rfl := regAt_eq_ctrl hctrl
    have hsize : size = 32 := by simpa [accepted] using haccepted
    exact .inr ⟨hcleared, .inr ⟨v, hsize ▸ hhead, hv⟩⟩
  case inr.inr.inr.inr.inr => exact .inr ⟨rfl, .inl hhead⟩
  all_goals exact absurd rfl hne

end Sys2Proof.Proofs
end

section
/-! PROOFS. The host's accesses of the window and their answers: what an aligned word read returns at each offset of the
register map, and the error response to an access of another width or alignment (20_memory R71 to R76). -/

namespace Sys2Proof.Machine

/-- The fourth word of a vector register's place in the window holds no register (20_memory R71). -/
theorem regAt_vpad (i : VIdx) : regAt (0x10C + 0x10 * i.val) = .reserved := by
  revert i; decide

/-- The gaps of the register map: after RESULT, after PMODE and after V7 (20_memory R71). -/
theorem regAt_gap {off : Nat} (halign : off % 4 = 0)
    (h : 0x014 ≤ off ∧ off < 0x020 ∨ 0x03C ≤ off ∧ off < 0x100 ∨ 0x180 ≤ off ∧ off < 0x200) :
    regAt off = .reserved := by
  have hvec : ¬ (0x100 ≤ off ∧ off < 0x180) := by omega
  unfold regAt
  rw [if_neg hvec]
  split
  case h_13 => rfl
  all_goals omega

/-- No register reads the turns still to come. -/
theorem readReg_schedule (s : State) (rest : List Turn) (r : Reg) :
    State.readReg { s with schedule := rest } r = s.readReg r := by
  cases r <;> rfl

/-- A word read of a register of the window answers its read value and changes nothing (20_memory R73, R76). -/
theorem step_busRead {s : State} {off : Nat} {rest : List Turn}
    (h : s.schedule = .busRead off 32 :: rest) (hoff : off < 0x200) (halign : off % 4 = 0) :
    step s = .next { s with schedule := rest, lastResponse := .readData (s.readReg (regAt off)) } := by
  rw [step_turn h, popped_eq h]
  simp [turn, busRead, accepted, halign, Nat.not_le.2 hoff, readReg_schedule]

/-- `step_busRead` where the register at the offset is known. -/
theorem step_busRead_of_regAt {s : State} {off : Nat} {rest : List Turn} {r : Reg}
    (h : s.schedule = .busRead off 32 :: rest) (hoff : off < 0x200) (halign : off % 4 = 0) (hr : regAt off = r) :
    step s = .next { s with schedule := rest, lastResponse := .readData (s.readReg r) } :=
  hr ▸ step_busRead h hoff halign

section
variable {s : State} {off size : Nat} {rest : List Turn} (hoff : off < 0x200) (hbad : size ≠ 32 ∨ off % 4 ≠ 0)
include hbad

/-- CORE accepts no access of another width or alignment (20_memory R72). -/
theorem accepted_eq_false : accepted off size = false := by
  rcases hbad with hsize | halign
  · simp [accepted, hsize]
  · simp [accepted, halign]

include hoff

theorem step_busRead_not_accepted (h : s.schedule = .busRead off size :: rest) :
    step s = .next { s with schedule := rest, lastResponse := .readError 0#32 } := by
  rw [step_turn h, popped_eq h]
  simp [turn, busRead, accepted_eq_false hbad, Nat.not_le.2 hoff]

theorem step_busWrite_not_accepted {v : Word} (h : s.schedule = .busWrite off size v :: rest) :
    step s = .next { s with schedule := rest, lastResponse := .writeError } := by
  rw [step_turn h, popped_eq h]
  simp [turn, busWrite, accepted_eq_false hbad, Nat.not_le.2 hoff]

end

end Sys2Proof.Machine

namespace Sys2Proof.Proofs

open Sys2Proof.Machine

/-- Settles O53: each read answers the register its offset names, and the gaps name none. -/
theorem registerWindowReads : Obligations.RegisterWindowReads := by
  unfold Obligations.RegisterWindowReads
  refine ⟨⟨rfl, rfl, rfl⟩, fun s rest => ⟨fun off w hmem h => ?fixed, fun i j w hmem h => ?vector,
    fun off halign hgap h => step_busRead_of_regAt h (by omega) halign (regAt_gap halign hgap)⟩⟩
  case fixed =>
    simp only [List.mem_cons, Prod.mk.injEq, List.not_mem_nil, or_false] at hmem
    rcases hmem with ⟨rfl, rfl⟩ | ⟨rfl, rfl⟩ | ⟨rfl, rfl⟩ | ⟨rfl, rfl⟩ | ⟨rfl, rfl⟩ | ⟨rfl, rfl⟩ | ⟨rfl, rfl⟩ |
      ⟨rfl, rfl⟩ | ⟨rfl, rfl⟩ | ⟨rfl, rfl⟩ | ⟨rfl, rfl⟩ | ⟨rfl, rfl⟩ <;>
    exact step_busRead h (by decide) rfl
  case vector =>
    have hi := i.isLt
    rw [Nat.add_right_comm] at h
    simp only [List.mem_cons, Prod.mk.injEq, List.not_mem_nil, or_false] at hmem
    rcases hmem with ⟨rfl, rfl⟩ | ⟨rfl, rfl⟩ | ⟨rfl, rfl⟩ | ⟨rfl, rfl⟩
    · exact step_busRead_of_regAt h (by omega) (by omega) (regAt_vlen i)
    · exact step_busRead_of_regAt h (by omega) (by omega) (regAt_vdlo i)
    · exact step_busRead_of_regAt h (by omega) (by omega) (regAt_vdhi i)
    · exact step_busRead_of_regAt h (by omega) (by omega) (regAt_vpad i)

/-- Settles O55: CORE accepts no such access, and its answer is all that a step then writes. -/
theorem wrongAccessesChangeNothing : Obligations.WrongAccessesChangeNothing := by
  unfold Obligations.WrongAccessesChangeNothing
  intro s rest off size v hoff hbad
  exact ⟨step_busRead_not_accepted hoff hbad, step_busWrite_not_accepted hoff hbad⟩

end Sys2Proof.Proofs
end

section
/-! PROOFS. The encoding (30_encoding R91, R94, R95, R98, R102): a word that a row of the opcode map selects holds
the row's OP, and 0 in every other field the row's mask covers, so it is the word of format C of the fields the row uses. -/

namespace Sys2Proof.Proofs

open Sys2Proof.Laws

/-- A mask covers a field as a whole. -/
abbrev coversField (mask : Word) (lo width : Nat) : Prop := fieldBits mask lo width = 2 ^ width - 1

/-- A mask covers a field as a whole or leaves it out as a whole. -/
abbrev wholeField (mask : Word) (lo width : Nat) : Prop := fieldBits mask lo width = 0 ∨ coversField mask lo width

/-- The masks of 30_encoding R94: OP and Z are covered, every other field is covered when the command does not use it. -/
abbrev fieldMask (mask : Word) : Prop :=
  coversField mask 0 6 ∧ coversField mask 15 1 ∧ wholeField mask 6 3 ∧ wholeField mask 9 3 ∧ wholeField mask 12 3 ∧
    wholeField mask 16 8 ∧ wholeField mask 24 8

/-- The value of a field where a mask leaves it out, 0 where the mask covers it: what the encoder writes there. -/
def outsideMask (mask : Word) (lo width x : Nat) : Nat := if fieldBits mask lo width = 0 then x else 0

/-! ### The rows -/

theorem opcodeMap_op_nodup : (opcodeMap.map OpRow.op).Nodup := by decide

theorem opcodeMap_fieldMask : ∀ row ∈ opcodeMap, row.op < 2 ^ 6 ∧ fieldMask row.mask := by decide

/-! ### A word that a row selects, field by field -/

theorem fieldBits_and_of_coversField {w mask : Word} {lo width : Nat} (h : coversField mask lo width) :
    fieldBits (w &&& mask) lo width = fieldBits w lo width := by
  unfold coversField at h
  unfold fieldBits at *
  rw [BitVec.toNat_and, Nat.and_div_two_pow, Nat.and_mod_two_pow, h, Nat.and_two_pow_sub_one_eq_mod, Nat.mod_mod]

section
variable {w mask : Word} {op : Nat} (hsel : w &&& mask = BitVec.ofNat 32 op) (hop : op < 2 ^ 6)
include hsel hop

theorem opField_of_selected (h : coversField mask 0 6) : opField w = op := by
  rw [opField, ← fieldBits_and_of_coversField h, hsel, fieldBits, BitVec.toNat_ofNat]
  omega

/-- Above OP a selected word is 0 in every field its row's mask covers. -/
theorem fieldBits_of_selected {lo width : Nat} (hlo : 6 ≤ lo) (h : coversField mask lo width) :
    fieldBits w lo width = 0 := by
  have hpow : op < 2 ^ lo := Nat.lt_of_lt_of_le hop (Nat.pow_le_pow_right (by decide) hlo)
  rw [← fieldBits_and_of_coversField h, hsel, fieldBits, BitVec.toNat_ofNat,
    Nat.mod_eq_of_lt (by omega : op < 2 ^ 32), Nat.div_eq_of_lt hpow, Nat.zero_mod]

theorem outsideMask_of_selected {lo width : Nat} (hlo : 6 ≤ lo) (h : wholeField mask lo width) :
    outsideMask mask lo width (fieldBits w lo width) = fieldBits w lo width := by
  unfold outsideMask
  split
  case isTrue => rfl
  case isFalse hne => exact (fieldBits_of_selected hsel hop hlo (h.resolve_left hne)).symm

end

/-- A selected word has its row's OP. -/
theorem op_eq_of_selected {w : Word} {row : OpRow} (hrow : row ∈ opcodeMap) (hsel : w &&& row.mask = row.matchWord) :
    row.op = opField w := by
  obtain ⟨hop, hcovers, -⟩ := opcodeMap_fieldMask row hrow
  exact (opField_of_selected hsel hop hcovers).symm

/-- A selected word is the word of its row's OP and of the fields its row's mask leaves out. -/
theorem formatC_outsideMask_of_selected {w : Word} {row : OpRow} (hrow : row ∈ opcodeMap)
    (hsel : w &&& row.mask = row.matchWord) :
    formatC row.op (outsideMask row.mask 6 3 (rdField w)) (outsideMask row.mask 9 3 (raField w))
      (outsideMask row.mask 12 3 (rbField w)) (outsideMask row.mask 16 8 (immaField w))
      (outsideMask row.mask 24 8 (immbField w)) = w := by
  obtain ⟨hop, -, hz, hrd, hra, hrb, himma, himmb⟩ := opcodeMap_fieldMask row hrow
  calc
    _ = formatC (opField w) (rdField w) (raField w) (rbField w) (immaField w) (immbField w) := by
      simp only [rdField, raField, rbField, regField, immaField, immbField, op_eq_of_selected hrow hsel,
        outsideMask_of_selected hsel hop (by decide) hrd, outsideMask_of_selected hsel hop (by decide) hra,
        outsideMask_of_selected hsel hop (by decide) hrb, outsideMask_of_selected hsel hop (by decide) himma,
        outsideMask_of_selected hsel hop (by decide) himmb]
    _ = w := formatC_fields (fieldBits_of_selected hsel hop (by decide) hz)

/-! ### What the decoder answers -/

/-- OP names one row: the search by a row's OP finds that row. -/
theorem find?_op_eq_some {row : OpRow} (hrow : row ∈ opcodeMap) :
    (opcodeMap.find? fun row' => row'.op == row.op) = some row := by
  have hsome : (opcodeMap.find? fun row' => row'.op == row.op).isSome :=
    List.find?_isSome.2 ⟨row, hrow, beq_self_eq_true row.op⟩
  obtain ⟨row', hfind⟩ := Option.isSome_iff_exists.1 hsome
  have hop : row'.op = row.op := by simpa using List.find?_some hfind
  rw [hfind, List.inj_on_of_nodup_map opcodeMap_op_nodup (List.mem_of_find?_eq_some hfind) hrow hop]

/-- A word decodes to a command exactly when it is selected by a row that builds the command. -/
theorem decode_eq_ok_iff {w : Word} {i : Instr} :
    decode w = .ok i ↔ ∃ row ∈ opcodeMap, w &&& row.mask = row.matchWord ∧ row.build w = i := by
  constructor
  · intro h
    unfold decode at h
    split at h
    case h_1 => cases h
    case h_2 row hfind =>
      split_ifs at h with hsel
      exact ⟨row, List.mem_of_find?_eq_some hfind, hsel, Except.ok.inj h⟩
  · rintro ⟨row, hrow, hsel, rfl⟩
    rw [decode, ← op_eq_of_selected hrow hsel, find?_op_eq_some hrow]
    exact if_pos hsel

/-- Settles O40: decoding succeeds by a row that selects the word, and every row that does has the word's OP. -/
theorem decodeAcceptsByMaskAndMatch : Obligations.DecodeAcceptsByMaskAndMatch := by
  unfold Obligations.DecodeAcceptsByMaskAndMatch
  refine fun w => ⟨⟨?_, ?_⟩, ?_⟩
  · rintro ⟨i, h⟩
    obtain ⟨row, hrow, hsel, -⟩ := decode_eq_ok_iff.1 h
    exact ⟨row, hrow, hsel⟩
  · rintro ⟨row, hrow, hsel⟩
    exact ⟨row.build w, decode_eq_ok_iff.2 ⟨row, hrow, hsel, rfl⟩⟩
  · intro row hrow row' hrow' hsel hsel'
    rw [op_eq_of_selected hrow hsel, op_eq_of_selected hrow' hsel']

/-! ### From a word to its command and back -/

theorem fieldBits_lt (w : Word) (lo width : Nat) : fieldBits w lo width < 2 ^ width :=
  Nat.mod_lt _ (Nat.two_pow_pos width)

/-- The command a row builds is well-formed: its immediates are 8-bit fields of the word. -/
theorem build_wf (w : Word) : ∀ row ∈ opcodeMap, (row.build w).wf := by
  have himma : immFits (immaField w) := fieldBits_lt w 16 8
  have himmb : immFits (immbField w) := fieldBits_lt w 24 8
  simp [opcodeMap, Instr.wf, himma, himmb]

/-- The command a row builds is encoded from the row's OP and the fields the row's mask leaves out. -/
theorem encode_build (w : Word) : ∀ row ∈ opcodeMap, encode (row.build w) =
    formatC row.op (outsideMask row.mask 6 3 (rdField w)) (outsideMask row.mask 9 3 (raField w))
      (outsideMask row.mask 12 3 (rbField w)) (outsideMask row.mask 16 8 (immaField w))
      (outsideMask row.mask 24 8 (immbField w)) := by
  simp only [opcodeMap, List.cons_append, List.nil_append, List.forall_mem_cons]
  exact ⟨rfl, rfl, rfl, rfl, rfl, rfl, rfl, rfl, rfl, rfl, rfl, rfl, rfl, rfl, rfl, rfl, rfl, rfl, rfl, rfl, rfl,
    List.forall_mem_nil _⟩

/-- Settles O39: the word is selected by the row that built the command, and both words are the same word of format C. -/
theorem encodeOfDecode : Obligations.EncodeOfDecode := by
  unfold Obligations.EncodeOfDecode
  intro w i h
  obtain ⟨row, hrow, hsel, rfl⟩ := decode_eq_ok_iff.1 h
  exact ⟨build_wf w row hrow, (encode_build w row hrow).trans (formatC_outsideMask_of_selected hrow hsel)⟩

/-! ### From a command to its word and back -/

open EncodedWordSelectsRow (fits)

/-- The word of operands that fit, selected by a row that builds `f` of the word's fields, decodes to `f` of the
operands. -/
theorem decode_formatC (f : VIdx → VIdx → VIdx → Nat → Nat → Instr) {op rd ra rb imma immb : Nat} {mask : Word}
    (h : FormatFits op rd ra rb imma immb) (hsel : formatC op rd ra rb imma immb &&& mask = BitVec.ofNat 32 op)
    (hrow : ⟨op, mask, fun w => f (rdField w) (raField w) (rbField w) (immaField w) (immbField w)⟩ ∈ opcodeMap) :
    decode (formatC op rd ra rb imma immb) = .ok (f ⟨rd, h.rd_lt⟩ ⟨ra, h.ra_lt⟩ ⟨rb, h.rb_lt⟩ imma immb) := by
  have hrd : rdField (formatC op rd ra rb imma immb) = ⟨rd, h.rd_lt⟩ := Fin.ext (rdField_formatC h)
  have hra : raField (formatC op rd ra rb imma immb) = ⟨ra, h.ra_lt⟩ := Fin.ext (raField_formatC h)
  have hrb : rbField (formatC op rd ra rb imma immb) = ⟨rb, h.rb_lt⟩ := Fin.ext (rbField_formatC h)
  refine decode_eq_ok_iff.2 ⟨_, hrow, hsel, ?_⟩
  simp only [hrd, hra, hrb, immaField_formatC h, immbField_formatC h]

/-- Settles O38: each command's row, named by its place in the opcode map, selects the command's word and reads its
operands back from the fields it uses. -/
theorem decodeOfEncode : Obligations.DecodeOfEncode := by
  unfold Obligations.DecodeOfEncode
  intro i hi
  cases i with
  | xor rd ra rb =>
    exact decode_formatC (fun d a b _ _ => .xor d a b) (fits (by decide) rd ra rb (by decide) (by decide))
      (EncodedWordSelectsRow.xor rd ra rb hi) (List.mem_of_getElem? (i := 0) rfl)
  | mul rd ra rb =>
    exact decode_formatC (fun d a b _ _ => .mul d a b) (fits (by decide) rd ra rb (by decide) (by decide))
      (EncodedWordSelectsRow.mul rd ra rb hi) (List.mem_of_getElem? (i := 1) rfl)
  | mod rd ra rb =>
    exact decode_formatC (fun d a b _ _ => .mod d a b) (fits (by decide) rd ra rb (by decide) (by decide))
      (EncodedWordSelectsRow.mod rd ra rb hi) (List.mem_of_getElem? (i := 2) rfl)
  | wgt ra =>
    exact decode_formatC (fun _ a _ _ _ => .wgt a) (fits (by decide) 0 ra 0 (by decide) (by decide))
      (EncodedWordSelectsRow.wgt ra hi) (List.mem_of_getElem? (i := 3) rfl)
  | rotl rd ra =>
    exact decode_formatC (fun d a _ _ _ => .rotl d a) (fits (by decide) rd ra 0 (by decide) (by decide))
      (EncodedWordSelectsRow.rotl rd ra hi) (List.mem_of_getElem? (i := 4) rfl)
  | rotr rd ra =>
    exact decode_formatC (fun d a _ _ _ => .rotr d a) (fits (by decide) rd ra 0 (by decide) (by decide))
      (EncodedWordSelectsRow.rotr rd ra hi) (List.mem_of_getElem? (i := 5) rfl)
  | shlx rd ra r =>
    exact decode_formatC (fun d a _ x _ => .shlx d a x) (fits (by decide) rd ra 0 hi (by decide))
      (EncodedWordSelectsRow.shlx rd ra r hi) (List.mem_of_getElem? (i := 6) rfl)
  | rslvH k =>
    exact decode_formatC (fun _ _ _ x _ => .rslvH x) (fits (by decide) 0 0 0 hi (by decide))
      (EncodedWordSelectsRow.rslvH k hi) (List.mem_of_getElem? (i := 7) rfl)
  | rslvBch k s =>
    exact decode_formatC (fun _ _ _ x y => .rslvBch x y) (fits (by decide) 0 0 0 hi.1 hi.2)
      (EncodedWordSelectsRow.rslvBch k s hi) (List.mem_of_getElem? (i := 8) rfl)
  | clrp =>
    exact decode_formatC (fun _ _ _ _ _ => .clrp) (fits (by decide) 0 0 0 (by decide) (by decide))
      (EncodedWordSelectsRow.clrp hi) (List.mem_of_getElem? (i := 9) rfl)
  | synCyc rd wmin =>
    exact decode_formatC (fun d _ _ x _ => .synCyc d x) (fits (by decide) rd 0 0 hi (by decide))
      (EncodedWordSelectsRow.synCyc rd wmin hi) (List.mem_of_getElem? (i := 10) rfl)
  | synBch rd =>
    exact decode_formatC (fun d _ _ _ _ => .synBch d) (fits (by decide) rd 0 0 (by decide) (by decide))
      (EncodedWordSelectsRow.synBch rd hi) (List.mem_of_getElem? (i := 11) rfl)
  | encPoly rd ra rb =>
    exact decode_formatC (fun d a b _ _ => .encPoly d a b) (fits (by decide) rd ra rb (by decide) (by decide))
      (EncodedWordSelectsRow.encPoly rd ra rb hi) (List.mem_of_getElem? (i := 12) rfl)
  | encMat rd ra =>
    exact decode_formatC (fun d a _ _ _ => .encMat d a) (fits (by decide) rd ra 0 (by decide) (by decide))
      (EncodedWordSelectsRow.encMat rd ra hi) (List.mem_of_getElem? (i := 13) rfl)
  | info rd ra =>
    exact decode_formatC (fun d a _ _ _ => .info d a) (fits (by decide) rd ra 0 (by decide) (by decide))
      (EncodedWordSelectsRow.info rd ra hi) (List.mem_of_getElem? (i := 14) rfl)
  | decCyc rd ra rb t =>
    exact decode_formatC (fun d a b x _ => .decCyc d a b x) (fits (by decide) rd ra rb hi (by decide))
      (EncodedWordSelectsRow.decCyc rd ra rb t hi) (List.mem_of_getElem? (i := 15) rfl)
  | decMat rd ra =>
    exact decode_formatC (fun d a _ _ _ => .decMat d a) (fits (by decide) rd ra 0 (by decide) (by decide))
      (EncodedWordSelectsRow.decMat rd ra hi) (List.mem_of_getElem? (i := 16) rfl)
  | synm rd ra =>
    exact decode_formatC (fun d a _ _ _ => .synm d a) (fits (by decide) rd ra 0 (by decide) (by decide))
      (EncodedWordSelectsRow.synm rd ra hi) (List.mem_of_getElem? (i := 17) rfl)
  | hrow rd i =>
    exact decode_formatC (fun d _ _ x _ => .hrow d x) (fits (by decide) rd 0 0 hi (by decide))
      (EncodedWordSelectsRow.hrow rd i hi) (List.mem_of_getElem? (i := 18) rfl)
  | hcol rd p =>
    exact decode_formatC (fun d _ _ x _ => .hcol d x) (fits (by decide) rd 0 0 hi (by decide))
      (EncodedWordSelectsRow.hcol rd p hi) (List.mem_of_getElem? (i := 19) rfl)
  | grow rd q =>
    exact decode_formatC (fun d _ _ x _ => .grow d x) (fits (by decide) rd 0 0 hi (by decide))
      (EncodedWordSelectsRow.grow rd q hi) (List.mem_of_getElem? (i := 20) rfl)

/-- Settles O41: the decoder run on the five words. -/
theorem encodingExamplesDecode : Obligations.EncodingExamplesDecode := by
  unfold Obligations.EncodingExamplesDecode
  decide

end Sys2Proof.Proofs
end

section
/-! PROOFS. The gf2_polynomial_arith unit: the product is commutative and distributes over XOR, the rotations move the
elements and multiply by x modulo x^L + 1, WGT counts elements, and each command of the unit completes with the
writes of its rule (41_gf2_polynomial_arith R121 to R128). -/

namespace Sys2Proof.Machine

/-! ### The product -/

/-- Counting the pairs of coefficients from the other end exchanges the factors. -/
theorem length_clmulPairs_comm (a b d : Nat) :
    (clmulPairs (d + 1) a b d).length = (clmulPairs (d + 1) b a d).length := by
  have hrev : (List.range (d + 1)).reverse = (List.range (d + 1)).map (d - ·) :=
    List.ext_getElem (by simp) fun i _ _ => by simp
  simp only [clmulPairs, ← List.countP_eq_length_filter]
  rw [← List.countP_reverse, hrev, List.countP_map]
  refine List.countP_congr fun j hj => ?_
  have hj : d - (d - j) = j := by have := List.mem_range.1 hj; omega
  simp [hj, and_comm]

theorem clmul_comm (a b : Nat) : clmul a b = clmul b a :=
  Nat.eq_of_testBit_eq fun d => by rw [testBit_clmul, testBit_clmul, length_clmulPairs_comm]

theorem clmul_xor_right (a b c : Nat) : clmul a (b ^^^ c) = clmul a b ^^^ clmul a c := by
  rw [clmul_comm, clmul_xor_left, clmul_comm b, clmul_comm c]

/-- The product by x^L + 1. -/
theorem clmul_two_pow_add_one (q : Nat) {L : Nat} (hL : 1 ≤ L) : clmul q (2 ^ L + 1) = q <<< L ^^^ q := by
  have hmod : 2 ^ L + 1 = 1 <<< L ^^^ 1 := by
    rw [Nat.one_shiftLeft, Nat.xor_one_of_even (Nat.even_pow.2 ⟨even_two, by omega⟩)]
  rw [clmul_comm, hmod, clmul_xor_left, clmul_shiftLeft_left, clmul_one_left]

theorem log2_two_pow_add_one {L : Nat} (hL : 1 ≤ L) : (2 ^ L + 1).log2 = L := by
  have hlt : 2 ^ L + 1 < 2 ^ (L + 1) := by
    have := Nat.one_lt_two_pow (n := L) (by omega)
    omega
  exact (Nat.log2_eq_iff (by omega)).2 ⟨by omega, hlt⟩

/-- A number of degree below the divisor's that differs from the dividend by a multiple is the remainder. -/
theorem clmod_eq_of_eq_clmul_xor {a b q c : Nat} (hb : b ≠ 0) (hc : c < 2 ^ b.log2) (h : a = clmul q b ^^^ c) :
    clmod a b = c := by
  obtain ⟨q', hq'⟩ := exists_eq_clmul_xor_clmod a b
  exact remainder_unique hb (clmod_lt hb a) hc (hq'.symm.trans h)

theorem eq_zero_or_log2_lt_of_lt {c n : Nat} (h : c < 2 ^ n) : c = 0 ∨ c.log2 < n := by
  rcases eq_or_ne c 0 with hc | hc
  · exact .inl hc
  · exact .inr ((Nat.log2_lt hc).2 h)

end Sys2Proof.Machine

namespace Sys2Proof.BVec

open Sys2Proof.Machine

/-! ### The elements of a BitVector -/

/-- A BitVector inside its length is its length and its elements. -/
theorem eq_of_elem {a b : BVec} (ha : a.Fits) (hb : b.Fits) (hlen : a.len = b.len)
    (h : ∀ i < a.len, a.elem i = b.elem i) : a = b := by
  have hval : a.val = b.val := by
    apply Nat.eq_of_testBit_eq
    intro j
    by_cases hj : j < a.len
    · have hi := h (a.len - 1 - j) (by omega)
      rw [elem, elem, ← hlen, show a.len - 1 - (a.len - 1 - j) = j by omega] at hi
      exact hi
    · have hpow : 2 ^ a.len ≤ 2 ^ j := Nat.pow_le_pow_right (by omega) (by omega)
      rw [Nat.testBit_lt_two_pow (ha.2.trans_le hpow), Nat.testBit_lt_two_pow ((hlen ▸ hb.2).trans_le hpow)]
  exact congrArg₂ BVec.mk hlen hval

/-- Bits at and above the length are 0. -/
theorem testBit_val_of_le {a : BVec} (ha : a.Fits) {j : Nat} (hj : a.len ≤ j) : a.val.testBit j = false :=
  Nat.testBit_lt_two_pow (ha.2.trans_le (Nat.pow_le_pow_right (by omega) hj))

theorem elem_xorAdd (a b : BVec) (i : Nat) :
    (a.xorAdd b).elem i = ((a.pad (max a.len b.len)).elem i ^^ (b.pad (max a.len b.len)).elem i) := by
  simp [elem]

theorem elem_mulXPow_of_lt {a : BVec} {i : Nat} (r : Nat) (hi : i < a.len) : (a.mulXPow r).elem i = a.elem i := by
  simp only [elem, len_mulXPow, val_mulXPow, Nat.testBit_shiftLeft]
  rw [show a.len + r - 1 - i - r = a.len - 1 - i by omega]
  simp [show r ≤ a.len + r - 1 - i by omega]

theorem elem_mulXPow_of_le {a : BVec} {i r : Nat} (hi : a.len ≤ i) (hr : i < a.len + r) :
    (a.mulXPow r).elem i = false := by
  simp [elem, Nat.testBit_shiftLeft, show ¬ r ≤ a.len + r - 1 - i by omega]

/-- The bits of a value of `n` bits, counted from the leading one down. -/
theorem popcountBits_eq_length_filter (n a : Nat) :
    popcountBits n a = ((List.range n).filter fun i => a.testBit (n - 1 - i)).length := by
  induction n generalizing a with
  | zero => rfl
  | succ n ih =>
    have hhalf : ∀ i ∈ List.range n, a.testBit (n + 1 - 1 - i) = (a / 2).testBit (n - 1 - i) := by
      intro i hi
      have hi := List.mem_range.1 hi
      rw [show n + 1 - 1 - i = n - 1 - i + 1 by omega, Nat.testBit_succ]
    rw [popcountBits, ih, List.range_succ, List.filter_append, List.length_append, List.filter_congr hhalf,
      List.filter_singleton, Nat.add_comm]
    rcases Nat.mod_two_eq_zero_or_one a with h | h <;> simp [h]

/-- The weight is the number of elements that are 1 (41 R124). -/
theorem weight_eq_length_filter {a : BVec} (ha : a.Fits) :
    a.weight = ((List.range a.len).filter fun i => a.elem i).length := by
  rw [weight, popcount_eq_popcountBits ha.2, popcountBits_eq_length_filter]
  rfl

/-! ### Rotations -/

theorem rotl_eq_mk (a : BVec) : a.rotl = ⟨a.len, a.rotl.val⟩ := congrArg (BVec.mk · a.rotl.val) (len_rotl a)

theorem rotr_eq_mk (a : BVec) : a.rotr = ⟨a.len, a.rotr.val⟩ := congrArg (BVec.mk · a.rotr.val) (len_rotr a)

theorem testBit_val_rotl (a : BVec) (j : Nat) :
    a.rotl.val.testBit j =
      (decide (j < a.len) && (decide (1 ≤ j) && a.val.testBit (j - 1) || a.val.testBit (a.len - 1 + j))) := by
  unfold rotl
  split
  · rename_i h
    simp [h]
  · simp only [Nat.testBit_and, Nat.testBit_or, Nat.testBit_shiftLeft, Nat.testBit_shiftRight,
      Nat.testBit_two_pow_sub_one]
    exact Bool.and_comm _ _

theorem testBit_val_rotr {a : BVec} (h : a.len ≠ 0) (j : Nat) :
    a.rotr.val.testBit j =
      (a.val.testBit (j + 1) || decide (a.len - 1 ≤ j) && (a.val &&& 1).testBit (j - (a.len - 1))) := by
  rw [rotr, if_neg h]
  simp only [Nat.testBit_or, Nat.testBit_shiftLeft, Nat.testBit_shiftRight, Nat.add_comm]

/-- Element 0 goes to the last index, every other element one index down (41 R125). -/
theorem elem_rotl {a : BVec} (ha : a.Fits) {i : Nat} (hi : i < a.len) : a.rotl.elem i = a.elem ((i + 1) % a.len) := by
  rw [elem, elem, testBit_val_rotl, len_rotl]
  rcases Nat.lt_or_eq_of_le (Nat.succ_le_of_lt hi) with hlt | heq
  · rw [Nat.mod_eq_of_lt hlt, testBit_val_of_le ha (show a.len ≤ a.len - 1 + (a.len - 1 - i) by omega),
      show a.len - 1 - (i + 1) = a.len - 1 - i - 1 by omega]
    simp [show a.len - 1 - i < a.len by omega, show 1 ≤ a.len - 1 - i by omega]
  · rw [show i + 1 = a.len from heq, Nat.mod_self, show a.len - 1 - i = 0 by omega]
    simp [show 0 < a.len by omega]

/-- The last element goes to index 0, every other element one index up (41 R126). -/
theorem elem_rotr {a : BVec} (ha : a.Fits) {i : Nat} (hi : i < a.len) :
    a.rotr.elem i = a.elem ((i + a.len - 1) % a.len) := by
  rw [elem, elem, testBit_val_rotr (by omega), len_rotr]
  rcases Nat.eq_zero_or_pos i with rfl | hpos
  · rw [testBit_val_of_le ha (by omega), Nat.zero_add, Nat.mod_eq_of_lt (by omega)]
    simp
  · rw [show i + a.len - 1 = i - 1 + a.len by omega, Nat.add_mod_right, Nat.mod_eq_of_lt (by omega),
      show a.len - 1 - (i - 1) = a.len - 1 - i + 1 by omega]
    simp [show ¬ a.len - 1 ≤ a.len - 1 - i by omega]

theorem elem_rotlTimes {a : BVec} (ha : a.Fits) (c : Nat) {i : Nat} (hi : i < a.len) :
    (a.rotlTimes c).elem i = a.elem ((i + c) % a.len) := by
  induction c generalizing a with
  | zero => rw [rotlTimes_zero, Nat.add_zero, Nat.mod_eq_of_lt hi]
  | succ c ih =>
    rw [rotlTimes_succ, ih (rotl_fits ha) (by simpa using hi), len_rotl, elem_rotl ha (Nat.mod_lt _ (by omega)),
      Nat.mod_add_mod, Nat.add_assoc]

theorem elem_rotrTimes {a : BVec} (ha : a.Fits) (c : Nat) {i : Nat} (hi : i < a.len) :
    (a.rotrTimes c).elem i = a.elem ((i + c * (a.len - 1)) % a.len) := by
  induction c generalizing a with
  | zero => rw [rotrTimes_zero, Nat.zero_mul, Nat.add_zero, Nat.mod_eq_of_lt hi]
  | succ c ih =>
    rw [rotrTimes_succ, ih (rotr_fits ha) (by simpa using hi), len_rotr, elem_rotr ha (Nat.mod_lt _ (by omega)),
      Nat.add_sub_assoc (by omega), Nat.mod_add_mod, Nat.add_assoc, Nat.succ_mul]

theorem rotlTimes_len {a : BVec} (ha : a.Fits) : a.rotlTimes a.len = a :=
  eq_of_elem (rotlTimes_fits ha _) ha (len_rotlTimes _ a) fun i hi => by
    rw [len_rotlTimes] at hi
    rw [elem_rotlTimes ha _ hi, Nat.add_mod_right, Nat.mod_eq_of_lt hi]

theorem rotrTimes_len {a : BVec} (ha : a.Fits) : a.rotrTimes a.len = a :=
  eq_of_elem (rotrTimes_fits ha _) ha (len_rotrTimes _ a) fun i hi => by
    rw [len_rotrTimes] at hi
    rw [elem_rotrTimes ha _ hi, Nat.add_mul_mod_self_left, Nat.mod_eq_of_lt hi]

theorem rotr_rotl {a : BVec} (ha : a.Fits) : a.rotl.rotr = a :=
  eq_of_elem (rotr_fits (rotl_fits ha)) ha (by simp) fun i hi => by
    rw [len_rotr, len_rotl] at hi
    rw [elem_rotr (rotl_fits ha) (by simpa using hi), len_rotl, elem_rotl ha (Nat.mod_lt _ (by omega)), Nat.mod_add_mod,
      show i + a.len - 1 + 1 = i + a.len by omega, Nat.add_mod_right, Nat.mod_eq_of_lt hi]

theorem rotl_rotr {a : BVec} (ha : a.Fits) : a.rotr.rotl = a :=
  eq_of_elem (rotl_fits (rotr_fits ha)) ha (by simp) fun i hi => by
    rw [len_rotl, len_rotr] at hi
    rw [elem_rotl (rotr_fits ha) (by simpa using hi), len_rotr, elem_rotr ha (Nat.mod_lt _ (by omega)),
      Nat.add_sub_assoc (by omega), Nat.mod_add_mod, show i + 1 + (a.len - 1) = i + a.len by omega, Nat.add_mod_right,
      Nat.mod_eq_of_lt hi]

/-- The bit that a shift by one pushes out of the length is the one a left rotation brings back at the other end: the
two differ by that multiple of x^L + 1. -/
theorem shiftLeft_one_eq_clmul_xor_rotl {a : BVec} (ha : a.Fits) (hL : 1 ≤ a.len) :
    a.val <<< 1 = clmul (a.val >>> (a.len - 1)) (2 ^ a.len + 1) ^^^ a.rotl.val := by
  rw [clmul_two_pow_add_one _ hL]
  apply Nat.eq_of_testBit_eq
  intro j
  simp only [Nat.testBit_xor, Nat.testBit_shiftLeft, Nat.testBit_shiftRight, testBit_val_rotl]
  rcases Nat.lt_or_ge j a.len with hj | hj
  · rcases Nat.eq_zero_or_pos j with rfl | hpos
    · simp [hj, show a.len ≠ 0 by omega]
    · simp [hj, show ¬ a.len ≤ j by omega, testBit_val_of_le ha (show a.len ≤ a.len - 1 + j by omega)]
  · rw [testBit_val_of_le ha (show a.len ≤ a.len - 1 + j by omega), show a.len - 1 + (j - a.len) = j - 1 by omega]
    simp [hj, show 1 ≤ j by omega, show ¬ j < a.len by omega]

/-- The differences of `c` left rotations add up to one multiple of x^L + 1. -/
theorem exists_shiftLeft_eq_clmul_xor_rotlTimes {a : BVec} (ha : a.Fits) (hL : 1 ≤ a.len) (c : Nat) :
    ∃ q, a.val <<< c = clmul q (2 ^ a.len + 1) ^^^ (a.rotlTimes c).val := by
  induction c generalizing a with
  | zero => exact ⟨0, by simp⟩
  | succ c ih =>
    obtain ⟨q, hq⟩ := ih (rotl_fits ha) (by simpa using hL)
    rw [len_rotl] at hq
    refine ⟨(a.val >>> (a.len - 1)) <<< c ^^^ q, ?_⟩
    calc a.val <<< (c + 1) = a.val <<< 1 <<< c := by rw [← Nat.shiftLeft_add, Nat.add_comm]
      _ = clmul (a.val >>> (a.len - 1)) (2 ^ a.len + 1) <<< c ^^^ a.rotl.val <<< c := by
        rw [shiftLeft_one_eq_clmul_xor_rotl ha hL, Nat.shiftLeft_xor_distrib]
      _ = _ := by rw [hq, clmul_xor_left, clmul_shiftLeft_left, rotlTimes_succ, Nat.xor_assoc]

/-- `c` left rotations multiply by x^c modulo x^L + 1 (41 R128). -/
theorem val_rotlTimes {a : BVec} (ha : a.Fits) (hL : 1 ≤ a.len) (c : Nat) :
    (a.rotlTimes c).val = clmod (a.val <<< c) (2 ^ a.len + 1) := by
  obtain ⟨q, hq⟩ := exists_shiftLeft_eq_clmul_xor_rotlTimes ha hL c
  have hlt : (a.rotlTimes c).val < 2 ^ (2 ^ a.len + 1).log2 := by
    simpa [log2_two_pow_add_one hL] using (rotlTimes_fits ha c).2
  exact (clmod_eq_of_eq_clmul_xor (by omega) hlt hq).symm

end Sys2Proof.BVec

namespace Sys2Proof.Machine

/-! ### Completion of the unit's commands -/

/-- A command whose rule raises an error fails with it. -/
theorem exec_eq_failed {i : Instr} {s : State} {c : ErrCode} (h : effectOf i s = .error c) :
    exec i s = .next (failed s c) := by
  rw [exec_eq_complete, h]
  rfl

/-- A command whose rule gives a vector that fits, and a scalar, writes these two alone. -/
theorem exec_writesOnlyVec {i : Instr} {s : State} {rd : VIdx} {a : BVec} {x : Nat} (ha : a.Fits)
    (h : effectOf i s = writesVec rd a x) : ∃ t, exec i s = .next t ∧ WritesOnlyVec s t rd a x := by
  refine ⟨_, exec_eq_complete i s, ?_⟩
  rw [h]
  obtain ⟨hvec, hlen, hdata, hothers⟩ := s.succeed_vec rd a x none none ha
  exact ⟨⟨rfl, rfl, rfl, rfl⟩, ⟨hvec, hlen, hdata⟩, hothers, rfl, rfl, s.keepsHostSide_complete _⟩

theorem WritesOnlyVec.vec_eq {s t : State} {rd : VIdx} {a : BVec} {x : Nat} (h : WritesOnlyVec s t rd a x) :
    t.vec rd = a := by
  obtain ⟨-, ⟨hvec, -, -⟩, -⟩ := h
  exact hvec

theorem mulEffect_of_empty (rd : VIdx) {a b : BVec} (h : a.len = 0 ∨ b.len = 0) :
    mulEffect rd a b = .error .invalidInput := by
  simp [mulEffect, BVec.multiply, h]

theorem mulEffect_of_lt (rd : VIdx) {a b : BVec} (ha : a.len ≠ 0) (hb : b.len ≠ 0) (h : 64 < a.len + b.len - 1) :
    mulEffect rd a b = .error .capacityExceeded := by
  simp [mulEffect, BVec.multiply, ha, hb, h]

theorem mulEffect_of_le (rd : VIdx) {a b : BVec} (ha : a.len ≠ 0) (hb : b.len ≠ 0) (h : a.len + b.len - 1 ≤ 64) :
    mulEffect rd a b = writesVec rd ⟨a.len + b.len - 1, clmul a.val b.val⟩ (a.len + b.len - 1) := by
  simp [mulEffect, BVec.multiply, ha, hb, Nat.not_lt.2 h]

end Sys2Proof.Machine

namespace Sys2Proof.Proofs

open Sys2Proof.Machine

/-- Settles O1: the XOR of two values is the XOR of their bits, and padding keeps the value. -/
theorem xorAddsPaddedOperands : Obligations.XorAddsPaddedOperands := by
  unfold Obligations.XorAddsPaddedOperands
  intro s rd ra rb
  obtain ⟨t, hexec, hwrites⟩ := exec_writesOnlyVec (i := .xor rd ra rb)
    (BVec.xorAdd_fits (s.vec_fits ra) (s.vec_fits rb)) rfl
  refine ⟨t, hexec, hwrites, fun i _ => ?_⟩
  rw [hwrites.vec_eq, BVec.elem_xorAdd]

/-- Settles O2: the effect in each of the three cases, and the bound on the product. -/
theorem mulWritesCarrylessProduct : Obligations.MulWritesCarrylessProduct := by
  unfold Obligations.MulWritesCarrylessProduct
  intro s rd ra rb
  refine ⟨fun h => exec_eq_failed (mulEffect_of_empty rd h),
    fun ha hb h => exec_eq_failed (mulEffect_of_lt rd ha hb h), fun ha hb h => ?_⟩
  exact exec_writesOnlyVec ⟨h, clmul_lt (s.vec_fits ra).2 (s.vec_fits rb).2⟩ (mulEffect_of_le rd ha hb h)

/-- Settles O4: the pairs of coefficients counted from either end, then linearity in the first factor. -/
theorem clmulCommutesAndDistributes : Obligations.ClmulCommutesAndDistributes := by
  unfold Obligations.ClmulCommutesAndDistributes
  exact fun a b c => ⟨clmul_comm a b, clmul_xor_right a b c⟩

/-- Settles O5: the remainder is `clmod`'s, with its defining equation and its bound. -/
theorem modWritesRemainder : Obligations.ModWritesRemainder := by
  unfold Obligations.ModWritesRemainder
  intro s rd ra rb
  refine ⟨fun h => exec_eq_failed (if_pos h), fun h => ?_⟩
  obtain ⟨t, hexec, hwrites⟩ := exec_writesOnlyVec (i := .mod rd ra rb)
    (BVec.modDivide_fits (a := s.vec ra) (s.vec_fits rb) h) (if_neg h)
  obtain ⟨q, hq⟩ := exists_eq_clmul_xor_clmod (s.vec ra).val (s.vec rb).val
  exact ⟨t, _, q, hexec, hwrites, hq, eq_zero_or_log2_lt_of_lt (clmod_lt h _)⟩

/-- Settles O7: the weight counted element by element, and the frame of a command with no destination. -/
theorem wgtCountsOnes : Obligations.WgtCountsOnes := by
  unfold Obligations.WgtCountsOnes
  intro s ra
  have hexec := exec_eq_complete (.wgt ra) s
  obtain ⟨hvregs, hdstat, hhost⟩ := exec_keeps_vregs_dstat hexec rfl (by simp)
  refine ⟨_, hexec, ⟨rfl, rfl, rfl, ?_⟩, hvregs, exec_keeps_params hexec (by simp), hdstat, hhost⟩
  rw [← BVec.weight_eq_length_filter (s.vec_fits ra)]
  rfl

/-- Settles O8: where `rotl` takes each element. -/
theorem rotlMovesElementsTowardZero : Obligations.RotlMovesElementsTowardZero := by
  unfold Obligations.RotlMovesElementsTowardZero
  intro s rd ra
  obtain ⟨t, hexec, hwrites⟩ := exec_writesOnlyVec (i := .rotl rd ra) (BVec.rotl_fits (s.vec_fits ra)) rfl
  refine ⟨t, (s.vec ra).rotl.val, hexec, by rwa [BVec.rotl_eq_mk] at hwrites, fun i hi => ?_⟩
  rw [hwrites.vec_eq, BVec.elem_rotl (s.vec_fits ra) hi]

/-- Settles O9: where `rotr` takes each element. -/
theorem rotrMovesElementsAwayFromZero : Obligations.RotrMovesElementsAwayFromZero := by
  unfold Obligations.RotrMovesElementsAwayFromZero
  intro s rd ra
  obtain ⟨t, hexec, hwrites⟩ := exec_writesOnlyVec (i := .rotr rd ra) (BVec.rotr_fits (s.vec_fits ra)) rfl
  refine ⟨t, (s.vec ra).rotr.val, hexec, by rwa [BVec.rotr_eq_mk] at hwrites, fun i hi => ?_⟩
  rw [hwrites.vec_eq, BVec.elem_rotr (s.vec_fits ra) hi]

/-- Settles O10: the shifted value, element by element. -/
theorem shlxAppendsZeroElements : Obligations.ShlxAppendsZeroElements := by
  unfold Obligations.ShlxAppendsZeroElements
  intro s rd ra r
  refine ⟨fun h => exec_eq_failed (if_pos h), fun h => ?_⟩
  obtain ⟨t, hexec, hwrites⟩ := exec_writesOnlyVec (i := .shlx rd ra r)
    (BVec.mulXPow_fits (s.vec_fits ra) h) (if_neg (Nat.not_lt.2 h))
  have hvec := hwrites.vec_eq
  refine ⟨t, hexec, ?_, fun i hi => ?_, fun i hle hlt => ?_⟩
  · rwa [BVec.mulXPow, Nat.shiftLeft_eq] at hwrites
  · rw [hvec, BVec.elem_mulXPow_of_lt r hi]
  · rw [hvec, BVec.elem_mulXPow_of_le hle hlt]

/-- Settles O11: each rotation is a permutation of the elements, and these compose to the identity. -/
theorem rotationsCloseAndUndo : Obligations.RotationsCloseAndUndo := by
  unfold Obligations.RotationsCloseAndUndo
  exact fun a ha => ⟨BVec.rotlTimes_len ha, BVec.rotrTimes_len ha, BVec.rotr_rotl ha, BVec.rotl_rotr ha⟩

/-- Settles O12: the rotated value differs from the shifted one by a multiple of x^L + 1, so it is its remainder. -/
theorem rotationIsMultiplicationByPowerOfX : Obligations.RotationIsMultiplicationByPowerOfX := by
  unfold Obligations.RotationIsMultiplicationByPowerOfX
  exact fun a c ha hL => BVec.val_rotlTimes ha hL c

end Sys2Proof.Proofs
end

section
/-! PROOFS. The bch_parameter_resolver unit: the redundancy of RSLV.H is the least that meets the Hamming bound, 1..n
then holds one power of two for each check element, and RSLV.BCH takes the first entry of BCH_TABLE that satisfies the
request (42_bch_parameter_resolver R151 to R156, 46_hamming_ecc_engine R230). -/

namespace Sys2Proof.Machine

/-! ### The Hamming bound -/

/-- `clog2 x` exceeds exactly the exponents `e` whose power of two does not reach `x`. -/
theorem lt_clog2_iff {x e : Nat} : e < clog2 x ↔ 2 ^ e < x := by
  rw [← not_le, clog2_le_iff, not_le]

/-- Any redundancy that meets the Hamming bound is at least the formula's (42 R152 (b)). -/
theorem hammingRedundancy_le {k r : Nat} (h : k + r + 1 ≤ 2 ^ r) : hammingRedundancy k ≤ r := by
  have hm : clog2 (k + 1) ≤ r := clog2_le_iff.2 (by omega)
  exact clog2_le_iff.2 (by omega)

theorem clog2_le_hammingRedundancy (k : Nat) : clog2 (k + 1) ≤ hammingRedundancy k :=
  clog2_le_iff.2 (le_trans (by omega) (clog2_le_iff.1 (le_refl (hammingRedundancy k))))

/-- The formula's redundancy meets the Hamming bound (42 R152 (a)): with `m = clog2 (k + 1)` it is `m`, or `m + 1`
where the bound holds by `k + 1 ≤ 2 ^ m` and `m + 1 ≤ 2 ^ m`. -/
theorem add_hammingRedundancy_add_one_le (k : Nat) : k + hammingRedundancy k + 1 ≤ 2 ^ hammingRedundancy k := by
  have hm : k + 1 ≤ 2 ^ clog2 (k + 1) := clog2_le_iff.1 le_rfl
  have hlt : clog2 (k + 1) < 2 ^ clog2 (k + 1) := Nat.lt_two_pow_self
  have hsucc : 2 ^ (clog2 (k + 1) + 1) = 2 * 2 ^ clog2 (k + 1) := Nat.pow_succ'
  have hle : hammingRedundancy k ≤ clog2 (k + 1) + 1 := clog2_le_iff.2 (by omega)
  have hr : k + 1 + clog2 (k + 1) ≤ 2 ^ hammingRedundancy k := clog2_le_iff.1 le_rfl
  obtain heq | heq : hammingRedundancy k = clog2 (k + 1) ∨ hammingRedundancy k = clog2 (k + 1) + 1 := by
    have := clog2_le_hammingRedundancy k
    omega
  · rw [heq] at hr ⊢
    omega
  · rw [heq]
    omega

/-- Every power of two below `2 ^ r` is at most `n = k + r`. -/
theorem two_pow_le_add_hammingRedundancy {k e : Nat} (he : e < hammingRedundancy k) :
    2 ^ e ≤ k + hammingRedundancy k := by
  have hlt : 2 ^ e < k + 1 + clog2 (k + 1) := lt_clog2_iff.1 he
  have := clog2_le_hammingRedundancy k
  omega

/-- The greatest power of two up to `n = k + r` is that of the first check element (46 R230). -/
theorem flog2_add_hammingRedundancy {k : Nat} (hk : k ≠ 0) :
    flog2 (k + hammingRedundancy k) + 1 = hammingRedundancy k := by
  have hr := one_le_hammingRedundancy hk
  have hbound := add_hammingRedundancy_add_one_le k
  have hlower : hammingRedundancy k - 1 ≤ flog2 (k + hammingRedundancy k) :=
    (Nat.le_log2 (by omega)).2 (two_pow_le_add_hammingRedundancy (by omega))
  have hupper : flog2 (k + hammingRedundancy k) < hammingRedundancy k := (Nat.log2_lt (by omega)).2 (by omega)
  omega

/-- RSLV.H accepts every `k` up to 57 (42 R158). -/
theorem add_hammingRedundancy_add_one_le_64 {k : Nat} (hk : k ≤ 57) : k + hammingRedundancy k + 1 ≤ 64 := by
  have : hammingRedundancy k ≤ 6 := hammingRedundancy_le (by omega)
  omega

/-! ### The powers of two in 1..n -/

section
variable {n r : Nat} (h : ∀ e < r, 2 ^ e ≤ n)
include h

/-- 1..n holds each of the powers 2^0 to 2^(r-1) once, when it reaches them all. -/
theorem length_filter_two_pow : ((List.range' 1 n).filter fun j => ∃ e < r, j = 2 ^ e).length = r := by
  have hperm : ((List.range' 1 n).filter fun j => ∃ e < r, j = 2 ^ e).Perm ((List.range r).map (2 ^ ·)) := by
    refine (List.perm_ext_iff_of_nodup (List.Nodup.filter _ List.nodup_range')
      (List.nodup_range.map (Nat.pow_right_injective le_rfl))).2 fun j => ?_
    simp only [List.mem_filter, List.mem_range'_1, decide_eq_true_eq, List.mem_map, List.mem_range]
    constructor
    · rintro ⟨-, e, he, rfl⟩
      exact ⟨e, he, rfl⟩
    · rintro ⟨e, he, rfl⟩
      have := h e he
      have := Nat.two_pow_pos e
      exact ⟨by omega, e, he, rfl⟩
  simpa using hperm.length_eq

/-- The other numbers in 1..n are the remaining n - r. -/
theorem length_filter_not_two_pow :
    ((List.range' 1 n).filter fun j => ¬ ∃ e < r, j = 2 ^ e).length = n - r := by
  have hsplit := List.length_eq_length_filter_add (l := List.range' 1 n) fun j => decide (∃ e < r, j = 2 ^ e)
  rw [length_filter_two_pow h, List.length_range'] at hsplit
  simp only [decide_not]
  omega

end

/-! ### The sessions the unit starts -/

/-- A command whose rule gives a session and a scalar writes these two alone. -/
theorem exec_writesOnlyParams {i : Instr} {s : State} {p : Params} {x : Nat} (h : effectOf i s = writesParams p x) :
    ∃ t, exec i s = .next t ∧ WritesOnlyParams s t x ∧ t.params = p := by
  refine ⟨_, exec_eq_complete i s, ?_⟩
  rw [h]
  exact ⟨⟨⟨rfl, rfl, rfl, rfl⟩, rfl, rfl, s.keepsHostSide_complete _⟩, rfl⟩

/-- The numbers in the parameter registers are those of the record they hold. -/
theorem holdsParams_of_params_eq {t : State} {p : Params} (h : t.params = p) :
    HoldsParams t p.k.toNat p.r.toNat p.n.toNat p.s.toNat p.h.toNat p.kreq.toNat p.mode := by
  subst h
  exact ⟨rfl, rfl, rfl, rfl, rfl, rfl, rfl⟩

theorem holdsParams_formulaSession {t : State} {k : Nat} (ht : t.params = formulaSession k)
    (hW : k + hammingRedundancy k + 1 ≤ Config.W) :
    HoldsParams t k (hammingRedundancy k) (k + hammingRedundancy k) 0 (clog2 (k + hammingRedundancy k + 1)) k
      .formula := by
  have hk : (wordOf k).toNat = k := toNat_wordOf_of_le (by omega)
  have hr : (wordOf (hammingRedundancy k)).toNat = hammingRedundancy k := toNat_wordOf_of_le (by omega)
  have hn : (wordOf (k + hammingRedundancy k)).toNat = k + hammingRedundancy k := toNat_wordOf_of_le (by omega)
  have hs : (wordOf 0).toNat = 0 := rfl
  have hparams := holdsParams_of_params_eq ht
  simp only [formulaSession, hk, hr, hn, hs, toNat_wordOf_clog2 hW] at hparams
  exact hparams

theorem holdsParams_bchSession {t : State} {k : Nat} {e : Config.BchEntry} (ht : t.params = bchSession k e)
    (hwf : e.wf) (hle : k ≤ e.k) : HoldsParams t e.k e.r e.n (e.s % 2 ^ 32) (clog2 (e.n + 1)) k .bch := by
  obtain ⟨hsum, -, -, hW⟩ := hwf
  have hk : (wordOf e.k).toNat = e.k := toNat_wordOf_of_le (by omega)
  have hr : (wordOf e.r).toNat = e.r := toNat_wordOf_of_le (by omega)
  have hn : (wordOf e.n).toNat = e.n := toNat_wordOf_of_le (by omega)
  have hkreq : (wordOf k).toNat = k := toNat_wordOf_of_le (by omega)
  have hs : (wordOf e.s).toNat = e.s % 2 ^ 32 := BitVec.toNat_ofNat _ _
  have hparams := holdsParams_of_params_eq ht
  simp only [bchSession, hk, hr, hn, hkreq, hs, toNat_wordOf_clog2 hW] at hparams
  exact hparams

/-! ### The rules of RSLV.H and RSLV.BCH, case by case -/

section
variable {k : Nat} (hk : k ≠ 0)
include hk

theorem rslvHEffect_of_lt (h : Config.W < k + hammingRedundancy k + 1) :
    rslvHEffect k = .error .noSuitableParameters := by
  rw [rslvHEffect, if_neg hk, if_pos h]

theorem rslvHEffect_of_le (h : k + hammingRedundancy k + 1 ≤ Config.W) :
    rslvHEffect k = writesParams (formulaSession k) (k + hammingRedundancy k) := by
  rw [rslvHEffect, if_neg hk, if_neg (Nat.not_lt.2 h)]

/-- RSLV.H starts a formula session whenever the code fits (42 R151). -/
theorem exec_rslvH (h : k + hammingRedundancy k + 1 ≤ Config.W) (s : State) :
    ∃ t, exec (.rslvH k) s = .next t ∧ WritesOnlyParams s t (k + hammingRedundancy k) ∧
      HoldsParams t k (hammingRedundancy k) (k + hammingRedundancy k) 0 (clog2 (k + hammingRedundancy k + 1)) k
        .formula := by
  obtain ⟨t, hexec, hwrites, hparams⟩ := exec_writesOnlyParams (i := .rslvH k) (s := s) (rslvHEffect_of_le hk h)
  exact ⟨t, hexec, hwrites, holdsParams_formulaSession hparams h⟩

theorem rslvBchEffect_of_none {cfg : Config.Tables} {c : Nat} (h : firstBchEntry cfg.bchTable k c = none) :
    rslvBchEffect cfg k c = .error .noSuitableParameters := by
  rw [rslvBchEffect, if_neg hk, h]

theorem rslvBchEffect_of_some {cfg : Config.Tables} {c : Nat} {e : Config.BchEntry}
    (h : firstBchEntry cfg.bchTable k c = some e) : rslvBchEffect cfg k c = writesParams (bchSession k e) e.n := by
  rw [rslvBchEffect, if_neg hk, h]

end

/-! ### The search of BCH_TABLE -/

theorem firstBchEntry_eq_none {table : List Config.BchEntry} {k c : Nat} (h : ∀ e ∈ table, ¬ bchMatches k c e) :
    firstBchEntry table k c = none := by
  simpa [firstBchEntry, bchMatches] using h

theorem firstBchEntry_append_cons {before after : List Config.BchEntry} {e : Config.BchEntry} {k c : Nat}
    (hbefore : ∀ x ∈ before, ¬ bchMatches k c x) (he : bchMatches k c e) :
    firstBchEntry (before ++ e :: after) k c = some e := by
  have hnone : before.find? _ = none := firstBchEntry_eq_none hbefore
  rw [firstBchEntry, List.find?_append, hnone, Option.none_or]
  exact List.find?_cons_of_pos (by simpa using he)

/-- In a table sorted by (n, r), every entry that satisfies the request is the first such entry or stands after it
in the order (42 R153). -/
theorem eq_or_before_of_bchMatches {before after : List Config.BchEntry} {e x : Config.BchEntry} {k c : Nat}
    (hsorted : (before ++ e :: after).Pairwise Config.BchEntry.before) (hbefore : ∀ y ∈ before, ¬ bchMatches k c y)
    (hx : x ∈ before ++ e :: after) (hmatch : bchMatches k c x) : x = e ∨ e.before x := by
  obtain ⟨-, hafter, -⟩ := List.pairwise_append.1 hsorted
  obtain hx | hx := List.mem_append.1 hx
  · exact absurd hmatch (hbefore x hx)
  · obtain rfl | hx := List.mem_cons.1 hx
    · exact .inl rfl
    · exact .inr (List.rel_of_pairwise_cons hafter hx)

end Sys2Proof.Machine

namespace Sys2Proof.Proofs

open Sys2Proof.Machine

/-- Settles O13: the effect in each of the three cases, and the session read back as numbers. -/
theorem rslvHStartsFormulaSession : Obligations.RslvHStartsFormulaSession := by
  unfold Obligations.RslvHStartsFormulaSession
  rintro s k r rfl
  exact ⟨fun h => exec_eq_failed (if_pos h), fun hk h => exec_eq_failed (rslvHEffect_of_lt hk h),
    fun hk h => exec_rslvH hk h s⟩

/-- Settles O14: the formula's redundancy is the least that meets the Hamming bound, and every power of two below
2^r lies in 1..n. -/
theorem rslvHMeetsHammingBound : Obligations.RslvHMeetsHammingBound := by
  unfold Obligations.RslvHMeetsHammingBound
  intro s k hk1 hk57
  have hk : k ≠ 0 := by omega
  obtain ⟨t, hexec, ⟨⟨herr, -⟩, -⟩, hpk, hpr, hpn, -, -, -, hmode⟩ :=
    exec_rslvH hk (add_hammingRedundancy_add_one_le_64 hk57) s
  have hbound := add_hammingRedundancy_add_one_le k
  have hshape : HammingShape t.params := by
    refine ⟨hmode, ?_⟩
    change t.pn = t.pk + t.pr ∧ 1 ≤ t.pr ∧ flog2 t.pn + 1 = t.pr
    rw [hpk, hpr, hpn]
    exact ⟨rfl, one_le_hammingRedundancy hk, flog2_add_hammingRedundancy hk⟩
  refine ⟨t, hexec, herr, hpk, ?_⟩
  rw [hpr, hpn]
  refine ⟨hbound, fun r hr => hammingRedundancy_le hr, hshape,
    length_filter_two_pow fun e he => two_pow_le_add_hammingRedundancy he, ?_, by omega⟩
  rw [length_filter_not_two_pow fun e he => two_pow_le_add_hammingRedundancy he, Nat.add_sub_cancel]

/-- Settles O15: the search answers the first entry that satisfies the request, and the order of the table makes it
the least. -/
theorem rslvBchTakesSmallestEntry : Obligations.RslvBchTakesSmallestEntry := by
  unfold Obligations.RslvBchTakesSmallestEntry
  intro s k c
  refine ⟨fun h => exec_eq_failed (if_pos h),
    fun hk h => exec_eq_failed (rslvBchEffect_of_none hk (firstBchEntry_eq_none h)),
    fun before after e hk htable hbefore he => ⟨fun hwf => ?_, fun ⟨_, hsorted, _⟩ x hx hmatch => ?_⟩⟩
  · have hfirst : firstBchEntry s.tables.bchTable k c = some e := htable ▸ firstBchEntry_append_cons hbefore he
    obtain ⟨t, hexec, hwrites, hparams⟩ :=
      exec_writesOnlyParams (i := .rslvBch k c) (rslvBchEffect_of_some hk hfirst)
    exact ⟨t, hexec, hwrites, holdsParams_bchSession hparams hwf he.1⟩
  · rw [htable] at hsorted hx
    exact eq_or_before_of_bchMatches hsorted hbefore hx hmatch

/-- Settles O16: CLRP's effect is to write the registers of no session, and 0 into RESULT. -/
theorem clrpEndsSession : Obligations.ClrpEndsSession := by
  unfold Obligations.ClrpEndsSession
  intro s
  obtain ⟨t, hexec, hwrites, hparams⟩ := exec_writesOnlyParams (i := .clrp) (s := s) rfl
  exact ⟨t, hexec, hwrites, holdsParams_of_params_eq hparams⟩

end Sys2Proof.Proofs
end

section
/-! PROOFS. The generator_polynomial_synthesizer unit: the two searches of SYN.CYC answer the first accepted candidate,
and the loop of SYN.BCH multiplies the defined polynomials and stops at the first error
(43_generator_polynomial_synthesizer R171 to R176). -/

namespace Sys2Proof.Machine

/-! ### The search of SYN.CYC -/

theorem accepts_iff {wmin n v : Nat} :
    accepts wmin n v = true ↔ wmin ≤ popcount v ∧ clmod (2 ^ n + 1) v = 0 := by
  simp [accepts]

theorem scanCandidates_eq_find? (wmin n count v : Nat) :
    scanCandidates wmin n count v = (List.range' v count).find? (accepts wmin n) := by
  induction count generalizing v with
  | zero => rfl
  | succ count ih =>
    rw [scanCandidates, List.range'_succ, List.find?_cons, ih]
    cases accepts wmin n v <;> rfl

/-- The candidates of degree `r` are the accepted values of the scan at degree `r` (43 R171). -/
theorem synCycCandidate_iff {wmin k r v : Nat} :
    synCycCandidate wmin k r v ↔ v ∈ List.range' (2 ^ r) (2 ^ r) ∧ accepts wmin (k + r) v = true := by
  rw [List.mem_range'_1, accepts_iff, ← Nat.two_mul, ← Nat.pow_succ', and_assoc]

theorem scanCandidates_eq_none {wmin k r : Nat} (h : ∀ v, ¬ synCycCandidate wmin k r v) :
    scanCandidates wmin (k + r) (2 ^ r) (2 ^ r) = none := by
  rw [scanCandidates_eq_find?, List.find?_eq_none]
  exact fun v hv haccepts => h v (synCycCandidate_iff.2 ⟨hv, haccepts⟩)

theorem scanCandidates_eq_some {wmin k r v : Nat} (h : synCycCandidate wmin k r v)
    (hleast : ∀ v', synCycCandidate wmin k r v' → v ≤ v') :
    scanCandidates wmin (k + r) (2 ^ r) (2 ^ r) = some v := by
  obtain ⟨hmem, haccepts⟩ := synCycCandidate_iff.1 h
  rw [scanCandidates_eq_find?, List.find?_range'_eq_some]
  refine ⟨haccepts, hmem, fun v' hlow hlt => ?_⟩
  rw [List.mem_range'_1] at hmem
  rw [Bool.not_eq_true']
  by_contra hv'
  have hcand : synCycCandidate wmin k r v' :=
    synCycCandidate_iff.2 ⟨List.mem_range'_1.2 ⟨hlow, by omega⟩, by simpa using hv'⟩
  exact absurd (hleast v' hcand) (by omega)

theorem searchDegrees_eq_none {wmin k : Nat} {rounds r₀ : Nat}
    (h : ∀ r v, r₀ ≤ r → r < r₀ + rounds → k + r + 1 ≤ Config.W → ¬ synCycCandidate wmin k r v) :
    searchDegrees wmin k rounds r₀ = none := by
  induction rounds generalizing r₀ with
  | zero => rfl
  | succ rounds ih =>
    rw [searchDegrees]
    split
    · rfl
    · next hfits =>
      rw [scanCandidates_eq_none fun v => h r₀ v le_rfl (by omega) (by omega)]
      exact ih fun r v hlow hhigh => h r v (by omega) (by omega)

/-- The search answers the candidate of least degree and, within it, of least value (43 R172). -/
theorem searchDegrees_eq_some {wmin k r v : Nat} {rounds r₀ : Nat} (hlow : r₀ ≤ r) (hhigh : r < r₀ + rounds)
    (hW : k + r + 1 ≤ Config.W) (hcand : synCycCandidate wmin k r v)
    (hfirst : ∀ r' v', r₀ ≤ r' → r' ≤ r → synCycCandidate wmin k r' v' → r < r' ∨ r = r' ∧ v ≤ v') :
    searchDegrees wmin k rounds r₀ = some (r, v) := by
  induction rounds generalizing r₀ with
  | zero => omega
  | succ rounds ih =>
    rw [searchDegrees, if_neg (by omega)]
    obtain rfl | hlt := Nat.eq_or_lt_of_le hlow
    · have hleast : ∀ v', synCycCandidate wmin k r₀ v' → v ≤ v' := fun v' hv' =>
        ((hfirst r₀ v' le_rfl le_rfl hv').resolve_left (lt_irrefl _)).2
      rw [scanCandidates_eq_some hcand hleast]
    · have hnone : ∀ v', ¬ synCycCandidate wmin k r₀ v' := fun v' hv' => by
        have := hfirst r₀ v' le_rfl hlow hv'
        omega
      rw [scanCandidates_eq_none hnone]
      exact ih hlt (by omega) fun r' v' hlow' => hfirst r' v' (by omega)

section
variable {s : State} {rd : VIdx} {wmin : Nat} (hmode : s.params.mode = .formula)
include hmode

theorem effectOf_synCyc_of_none
    (h : searchDegrees wmin s.pk (s.tables.genMaxDegree + 1 - s.pr) s.pr = none) :
    effectOf (.synCyc rd wmin) s = .error .noGeneratorFound := by
  simp only [State.pk, State.pr] at h
  rw [effectOf, synCycEffect, if_neg (not_not.2 hmode), h]

theorem effectOf_synCyc_of_some {r v : Nat}
    (h : searchDegrees wmin s.pk (s.tables.genMaxDegree + 1 - s.pr) s.pr = some (r, v)) :
    effectOf (.synCyc rd wmin) s = .ok ⟨some (rd, ⟨r + 1, v⟩), r, some (widenedSession s.params r), none⟩ := by
  simp only [State.pk, State.pr] at h
  rw [effectOf, synCycEffect, if_neg (not_not.2 hmode), h]

/-- The numbers of a widened session (43 R172). -/
theorem holdsParams_widenedSession {t : State} {r : Nat} (ht : t.params = widenedSession s.params r)
    (hW : s.pk + r + 1 ≤ Config.W) :
    HoldsParams t s.pk r (s.pk + r) s.ps (clog2 (s.pk + r + 1)) s.pkreq .formula := by
  rw [State.pk] at hW ⊢
  have hr : (wordOf r).toNat = r := toNat_wordOf_of_le (by omega)
  have hn : (wordOf (s.params.k.toNat + r)).toNat = s.params.k.toNat + r := toNat_wordOf_of_le (by omega)
  have hparams := holdsParams_of_params_eq ht
  simp only [widenedSession, hmode, hr, hn, toNat_wordOf_clog2 hW] at hparams
  exact hparams

end

/-! ### The product of SYN.BCH -/

/-- A defined entry of well-formed tables has the shape of 00_scope R11. -/
theorem minPolyAt_wf {cfg : Config.Tables} {h i : Nat} {q : BVec} (hwf : ∀ e ∈ cfg.minPoly, e.wf)
    (hq : cfg.minPolyAt h i = some q) : 1 ≤ q.len ∧ q.val < 2 ^ q.len := by
  obtain ⟨e, he, rfl⟩ := Option.map_eq_some_iff.1 hq
  obtain ⟨-, hlen, -, -, hval⟩ := hwf e (List.mem_of_find?_eq_some he)
  exact ⟨hlen, hval⟩

theorem map_oddIndices {α : Type} (f : Nat → α) (n : Nat) :
    (oddIndices n).map f = (List.range n).map fun j => f (2 * j + 1) := List.map_map

/-- The odd indices up to a bound begin with those before any one of them. -/
theorem exists_oddIndices_eq_append {j n : Nat} (h : j < n) :
    ∃ rest, oddIndices n = oddIndices j ++ (2 * j + 1) :: rest := by
  obtain ⟨m, rfl⟩ := Nat.exists_eq_add_of_lt h
  rw [oddIndices, Nat.add_assoc, List.range_add, List.map_append, List.range_succ_eq_map]
  exact ⟨_, rfl⟩

section
variable {cfg : Config.Tables} {h : Nat} {is : List Nat} {ps : List BVec}

theorem foldl_clmul_lt {v len : Nat} (hps : ∀ q ∈ ps, 1 ≤ q.len ∧ q.val < 2 ^ q.len) (hv : v < 2 ^ len) :
    ps.foldl (fun g q => clmul g q.val) v < 2 ^ (len + (ps.map fun q => q.len - 1).sum) := by
  induction ps generalizing v len with
  | nil => exact hv
  | cons q qs ih =>
    obtain ⟨⟨hlen, hval⟩, hqs⟩ := List.forall_mem_cons.1 hps
    have hstep : clmul v q.val < 2 ^ (len + (q.len - 1)) := Nat.add_sub_assoc hlen len ▸ clmul_lt hv hval
    rw [List.foldl_cons, List.map_cons, List.sum_cons, ← Nat.add_assoc]
    exact ih hqs hstep

theorem productVal_lt (hps : ∀ q ∈ ps, 1 ≤ q.len ∧ q.val < 2 ^ q.len) : productVal ps < 2 ^ productLen ps :=
  foldl_clmul_lt hps (by decide)

/-- The loop of SYN.BCH over a run of defined indices: the lengths only grow, so it stops inside the run exactly when the
whole product of the run is too long, and else goes on with that product (43 R174). -/
theorem minPolyProduct_append (hps : is.map (cfg.minPolyAt h) = ps.map some) (hlen : ∀ q ∈ ps, 1 ≤ q.len)
    (rest : List Nat) {g : BVec} (hg : 1 ≤ g.len) (hgW : g.len ≤ Config.W) :
    minPolyProduct cfg h (is ++ rest) g =
      if Config.W < g.len + (ps.map fun q => q.len - 1).sum then .error .capacityExceeded
      else minPolyProduct cfg h rest
        ⟨g.len + (ps.map fun q => q.len - 1).sum, ps.foldl (fun g q => clmul g q.val) g.val⟩ := by
  induction is generalizing ps g with
  | nil =>
    obtain rfl : ps = [] := List.map_eq_nil_iff.1 hps.symm
    exact (if_neg (Nat.not_lt.2 hgW)).symm
  | cons i is ih =>
    obtain ⟨q, qs, rfl, hi, his⟩ := List.map_eq_cons_iff.1 hps.symm
    obtain ⟨hq, hqs⟩ := List.forall_mem_cons.1 hlen
    have hsum : g.len + q.len - 1 = g.len + (q.len - 1) := Nat.add_sub_assoc hq g.len
    rw [List.cons_append, minPolyProduct, ← hi, List.map_cons, List.sum_cons, ← Nat.add_assoc, List.foldl_cons]
    by_cases hW : Config.W < g.len + q.len - 1
    · simp only [if_pos hW]
      rw [if_pos (by omega)]
    · have hmul : g.multiply q = .ok ⟨g.len + (q.len - 1), clmul g.val q.val⟩ := by
        rw [BVec.multiply, if_neg (by omega), if_neg hW, hsum]
      simp only [if_neg hW, hmul]
      exact ih his.symm hqs (by simp only; omega) (by simp only; omega)

section
variable {n : Nat} (hwf : ∀ e ∈ cfg.minPoly, e.wf)
  (hps : ((List.range n).map fun j => cfg.minPolyAt h (2 * j + 1)) = ps.map some)
include hwf hps

theorem wf_of_map_minPolyAt : ∀ q ∈ ps, 1 ≤ q.len ∧ q.val < 2 ^ q.len := by
  intro q hq
  have hmem : some q ∈ (List.range n).map fun j => cfg.minPolyAt h (2 * j + 1) := hps ▸ List.mem_map_of_mem hq
  obtain ⟨j, -, hj⟩ := List.mem_map.1 hmem
  exact minPolyAt_wf hwf hj

/-- With every index defined, the loop of SYN.BCH gives the whole product or finds it too long (43 R174). -/
theorem minPolyProduct_oddIndices :
    minPolyProduct cfg h (oddIndices n) ⟨1, 1⟩ =
      if Config.W < productLen ps then .error .capacityExceeded else .ok ⟨productLen ps, productVal ps⟩ := by
  have hlen : ∀ q ∈ ps, 1 ≤ q.len := fun q hq => (wf_of_map_minPolyAt hwf hps q hq).1
  rw [← List.append_nil (oddIndices n)]
  exact minPolyProduct_append ((map_oddIndices _ n).trans hps) hlen [] le_rfl (by decide)

end

/-- A product exists only when every index is defined (43 R174). -/
theorem minPolyAt_ne_none_of_minPolyProduct_ok {g p : BVec} (hok : minPolyProduct cfg h is g = .ok p) :
    ∀ i ∈ is, cfg.minPolyAt h i ≠ none := by
  induction is generalizing g with
  | nil => nofun
  | cons i is ih =>
    rw [minPolyProduct] at hok
    split at hok
    · cases hok
    · next q hi =>
      split at hok
      · cases hok
      · split at hok
        · cases hok
        · exact List.forall_mem_cons.2 ⟨by simp [hi], ih hok⟩

end

/-! ### The rule of SYN.BCH, case by case -/

section
variable {s : State} {rd : VIdx} (hmode : s.params.mode = .bch)
include hmode

theorem effectOf_synBch_of_error {c : ErrCode}
    (h : minPolyProduct s.tables s.ph (oddIndices s.ps) ⟨1, 1⟩ = .error c) :
    effectOf (.synBch rd) s = .error c := by
  simp only [State.ph, State.ps] at h
  rw [effectOf, synBchEffect, if_neg (not_not.2 hmode), h]

theorem effectOf_synBch_of_ok {g : BVec} (h : minPolyProduct s.tables s.ph (oddIndices s.ps) ⟨1, 1⟩ = .ok g) :
    effectOf (.synBch rd) s =
      if g.len - 1 ≠ s.pr ∨ clmod (2 ^ s.pn + 1) g.val ≠ 0 then .error .noGeneratorFound
      else writesVec rd g s.pr := by
  simp only [State.ph, State.ps] at h
  rw [effectOf, synBchEffect, if_neg (not_not.2 hmode), h]
  rfl

/-- SYN.BCH fails when some index is undefined, whatever the tables (43 R174). -/
theorem exists_effectOf_synBch_eq_error {i : Nat} (hi : i ∈ oddIndices s.ps) (hnone : s.tables.minPolyAt s.ph i = none) :
    ∃ c, effectOf (.synBch rd) s = .error c := by
  cases h : minPolyProduct s.tables s.ph (oddIndices s.ps) ⟨1, 1⟩ with
  | error c => exact ⟨c, effectOf_synBch_of_error hmode h⟩
  | ok g => exact absurd hnone (minPolyAt_ne_none_of_minPolyProduct_ok h i hi)

/-- The error at the first undefined index, when the polynomials before it are not empty (43 R174). -/
theorem effectOf_synBch_of_undefined {j : Nat} {ps : List BVec} (hj : j < s.ps)
    (hnone : s.tables.minPolyAt s.ph (2 * j + 1) = none)
    (hps : ((List.range j).map fun i => s.tables.minPolyAt s.ph (2 * i + 1)) = ps.map some)
    (hlen : ∀ q ∈ ps, 1 ≤ q.len) :
    effectOf (.synBch rd) s =
      .error (if Config.W < productLen ps then .capacityExceeded else .missingMinimalPolynomial) := by
  apply effectOf_synBch_of_error hmode
  obtain ⟨rest, hrest⟩ := exists_oddIndices_eq_append hj
  rw [hrest, minPolyProduct_append ((map_oddIndices _ j).trans hps) hlen _ le_rfl (by decide), minPolyProduct, hnone]
  split <;> rfl

section
variable {ps : List BVec} (hwf : ∀ e ∈ s.tables.minPoly, e.wf)
  (hps : ((List.range s.ps).map fun j => s.tables.minPolyAt s.ph (2 * j + 1)) = ps.map some)
include hwf hps

theorem exec_synBch_of_too_long (hW : Config.W < productLen ps) :
    exec (.synBch rd) s = .next (failed s .capacityExceeded) :=
  exec_eq_failed (effectOf_synBch_of_error hmode ((minPolyProduct_oddIndices hwf hps).trans (if_pos hW)))

section
variable (hW : productLen ps ≤ Config.W)
include hW

theorem effectOf_synBch_of_fits :
    effectOf (.synBch rd) s =
      if productLen ps - 1 ≠ s.pr ∨ clmod (2 ^ s.pn + 1) (productVal ps) ≠ 0 then .error .noGeneratorFound
      else writesVec rd ⟨productLen ps, productVal ps⟩ s.pr :=
  effectOf_synBch_of_ok hmode ((minPolyProduct_oddIndices hwf hps).trans (if_neg (Nat.not_lt.2 hW)))

theorem exec_synBch_of_no_generator (h : productLen ps ≠ s.pr + 1 ∨ clmod (2 ^ s.pn + 1) (productVal ps) ≠ 0) :
    exec (.synBch rd) s = .next (failed s .noGeneratorFound) := by
  have hcheck : productLen ps - 1 ≠ s.pr ∨ clmod (2 ^ s.pn + 1) (productVal ps) ≠ 0 :=
    h.imp_left fun hlen => by simpa [productLen, Nat.add_comm] using hlen
  exact exec_eq_failed ((effectOf_synBch_of_fits hmode hwf hps hW).trans (if_pos hcheck))

/-- SYN.BCH writes the product when it has degree PR and divides x^PN + 1 (43 R174). -/
theorem exec_synBch_of_generator (hlen : productLen ps = s.pr + 1)
    (hdvd : clmod (2 ^ s.pn + 1) (productVal ps) = 0) :
    ∃ t, exec (.synBch rd) s = .next t ∧ WritesOnlyVec s t rd ⟨s.pr + 1, productVal ps⟩ s.pr := by
  have heffect := effectOf_synBch_of_fits (rd := rd) hmode hwf hps hW
  rw [if_neg (by simp [hlen, hdvd]), hlen] at heffect
  have hval := productVal_lt (wf_of_map_minPolyAt hwf hps)
  exact exec_writesOnlyVec ⟨hlen ▸ hW, hlen ▸ hval⟩ heffect

end

end

end

/-! ### The default tables -/

/-- The polynomials that MINPOLY defines for the indices of an entry of the default BCH_TABLE. -/
def defaultPolys (e : Config.BchEntry) : List BVec :=
  (oddIndices e.s).filterMap (Config.defaultTables.minPolyAt (clog2 (e.n + 1)))

/-- Every entry of the default BCH_TABLE has all its polynomials, and their product is a generator of its code
(43 R176). -/
theorem defaultPolys_generate : ∀ e ∈ Config.defaultBchTable,
    e.s % 2 ^ 32 = e.s ∧
    ((List.range e.s).map fun j => Config.defaultTables.minPolyAt (clog2 (e.n + 1)) (2 * j + 1)) =
      (defaultPolys e).map some ∧
    productLen (defaultPolys e) ≤ Config.W ∧ productLen (defaultPolys e) = e.r + 1 ∧
    clmod (2 ^ e.n + 1) (productVal (defaultPolys e)) = 0 := by decide

/-- A BCH session of the invariant under the default tables has a generator (43 R176). -/
theorem exists_generator_of_defaultTables {s : State} (hinv : s.Inv) (htables : s.tables = Config.defaultTables)
    (hmode : s.params.mode = .bch) : ∃ ps : List BVec,
      ((List.range s.ps).map fun j => s.tables.minPolyAt s.ph (2 * j + 1)) = ps.map some ∧
      productLen ps ≤ Config.W ∧ productLen ps = s.pr + 1 ∧ clmod (2 ^ s.pn + 1) (productVal ps) = 0 := by
  obtain ⟨-, ⟨-, hsession, -, hbch⟩, -⟩ := hinv
  obtain ⟨-, -, -, hh, -⟩ := hsession (by simp [hmode])
  obtain ⟨e, he, hn, -, hr, hs⟩ := hbch hmode
  rw [htables] at he
  obtain ⟨hmod, hps, hgen⟩ := defaultPolys_generate e he
  refine ⟨defaultPolys e, ?_⟩
  rw [State.ps, State.ph, State.pr, State.pn, htables, hh, hn, hr, hs, hmod]
  exact ⟨hps, hgen⟩

end Sys2Proof.Machine

namespace Sys2Proof.Proofs

open Sys2Proof.Machine

/-- Settles O18: the search visits the degrees and, at each, the values in ascending order, and the session is read back
as numbers. -/
theorem synCycSelectsFirstGenerator : Obligations.SynCycSelectsFirstGenerator := by
  unfold Obligations.SynCycSelectsFirstGenerator
  intro s rd wmin
  refine ⟨fun h => exec_eq_failed (if_pos h), fun hmode hnone => ?_,
    fun r v hmode ⟨hlow, hhigh, hW⟩ hcand hfirst => ?_⟩
  · apply exec_eq_failed (effectOf_synCyc_of_none hmode (searchDegrees_eq_none _))
    exact fun r v hlow hhigh hW => hnone r v ⟨hlow, by omega, hW⟩
  · have hsearch : searchDegrees wmin s.pk (s.tables.genMaxDegree + 1 - s.pr) s.pr = some (r, v) :=
      searchDegrees_eq_some hlow (by omega) hW hcand fun r' v' hlow' hle =>
        hfirst r' v' ⟨hlow', by omega, by omega⟩
    have hfits : BVec.Fits ⟨r + 1, v⟩ := ⟨show r + 1 ≤ 64 by omega, hcand.2.1⟩
    refine ⟨_, exec_eq_complete _ s, ?_⟩
    rw [effectOf_synCyc_of_some hmode hsearch]
    obtain ⟨hvec, hlen, hdata, hothers⟩ := s.succeed_vec rd _ r (some (widenedSession s.params r)) none hfits
    exact ⟨⟨rfl, rfl, rfl, rfl⟩, ⟨hvec, hlen, hdata⟩, hothers, rfl, s.keepsHostSide_complete _,
      holdsParams_widenedSession hmode rfl hW⟩

/-- Settles O19: the loop gives the whole product or finds it too long, and the default tables hold a generator for each
entry of BCH_TABLE. -/
theorem synBchWritesGenerator : Obligations.SynBchWritesGenerator := by
  unfold Obligations.SynBchWritesGenerator
  intro s rd
  refine ⟨fun h => exec_eq_failed (if_pos h),
    fun ps hmode hwf hps => ⟨exec_synBch_of_too_long hmode hwf hps, exec_synBch_of_no_generator hmode hwf hps,
      exec_synBch_of_generator hmode hwf hps⟩, fun hinv htables hmode => ?_⟩
  obtain ⟨ps, hps, hW, hlen, hdvd⟩ := exists_generator_of_defaultTables hinv htables hmode
  obtain ⟨⟨-, -, -, hwf⟩, -⟩ := hinv
  obtain ⟨t, hexec, hwrites⟩ := exec_synBch_of_generator (rd := rd) hmode hwf hps hW hlen hdvd
  exact ⟨t, ps, hexec, hps, hwrites, by rw [hwrites.vec_eq]; exact hdvd⟩

/-- Settles O20: a product exists only when every index is defined, and the loop reaches the first undefined index
exactly when the product before it fits. -/
theorem missingMinimalPolynomialIsFatal : Obligations.MissingMinimalPolynomialIsFatal := by
  unfold Obligations.MissingMinimalPolynomialIsFatal
  intro s rd j hmode hj hnone
  refine ⟨?_, ?_, fun ps hwf hps => ?_⟩
  · have hmem : 2 * j + 1 ∈ oddIndices s.ps := List.mem_map.2 ⟨j, List.mem_range.2 hj, rfl⟩
    obtain ⟨c, hc⟩ := exists_effectOf_synBch_eq_error (rd := rd) hmode hmem hnone
    exact ⟨c, (effectOf_error_code hc).1, exec_eq_failed hc⟩
  · rintro rfl
    exact exec_eq_failed (effectOf_synBch_of_undefined (ps := []) hmode hj hnone rfl nofun)
  · have hlen : ∀ q ∈ ps, 1 ≤ q.len := fun q hq => (wf_of_map_minPolyAt hwf hps q hq).1
    have heffect := effectOf_synBch_of_undefined (rd := rd) hmode hj hnone hps hlen
    exact ⟨fun hW => exec_eq_failed (heffect.trans (by rw [if_neg (Nat.not_lt.2 hW)])),
      fun hW => exec_eq_failed (heffect.trans (by rw [if_pos hW]))⟩

end Sys2Proof.Proofs
end

section
/-! PROOFS. The systematic_encoder unit: a codeword is its information word above its check bits, both encoders are linear,
the polynomial codeword is a multiple of the generator, and INFO takes the information word back out
(44_systematic_encoder R190 to R194). -/

namespace Sys2Proof.Machine

/-! ### A word of information bits above `r` check bits -/

section
variable {r x : Nat} (hx : x < 2 ^ r)
include hx

theorem shiftLeft_or_eq_shiftLeft_xor (a : Nat) : a <<< r ||| x = a <<< r ^^^ x := by
  apply Nat.eq_of_testBit_eq
  intro i
  rw [Nat.testBit_or, Nat.testBit_xor, Nat.testBit_shiftLeft]
  rcases Nat.lt_or_ge i r with hi | hi
  · simp [Nat.not_le.2 hi]
  · simp [Nat.testBit_lt_two_pow (hx.trans_le (Nat.pow_le_pow_right (by omega) hi))]

/-- The information bits stand above the check bits (44 R194 (a)). -/
theorem shiftLeft_xor_shiftRight (a : Nat) : (a <<< r ^^^ x) >>> r = a := by
  rw [Nat.shiftRight_xor_distrib, Nat.shiftLeft_shiftRight, Nat.shiftRight_eq_zero x r hx, Nat.xor_zero]

/-- The check bits are the low `r` bits (44 R194 (a)). -/
theorem shiftLeft_xor_mod_two_pow (a : Nat) : (a <<< r ^^^ x) % 2 ^ r = x := by
  rw [Nat.xor_mod_two_pow, Nat.shiftLeft_eq, Nat.mul_mod_left, Nat.zero_xor, Nat.mod_eq_of_lt hx]

theorem shiftLeft_xor_lt {a k : Nat} (ha : a < 2 ^ k) : a <<< r ^^^ x < 2 ^ (k + r) := by
  refine Nat.xor_lt_two_pow ?_ (hx.trans_le (Nat.pow_le_pow_right (by omega) (by omega)))
  rw [Nat.shiftLeft_eq, Nat.pow_add]
  exact Nat.mul_lt_mul_of_pos_right ha (Nat.two_pow_pos r)

end

/-! ### The remainder -/

section
variable {b : Nat} (hb : b ≠ 0)
include hb

/-- The remainders of two dividends add up to one of degree below the divisor's, and so do the multiples. -/
theorem clmod_xor_left (a a' : Nat) : clmod (a ^^^ a') b = clmod a b ^^^ clmod a' b := by
  obtain ⟨q, hq⟩ := exists_eq_clmul_xor_clmod a b
  obtain ⟨q', hq'⟩ := exists_eq_clmul_xor_clmod a' b
  refine clmod_eq_of_eq_clmul_xor (q := q ^^^ q') hb (Nat.xor_lt_two_pow (clmod_lt hb a) (clmod_lt hb a')) ?_
  calc a ^^^ a' = (clmul q b ^^^ clmod a b) ^^^ (clmul q' b ^^^ clmod a' b) := by rw [← hq, ← hq']
    _ = clmul (q ^^^ q') b ^^^ (clmod a b ^^^ clmod a' b) := by rw [clmul_xor_left]; ac_rfl

/-- A dividend less its remainder is a multiple of the divisor. -/
theorem clmod_xor_clmod (a : Nat) : clmod (a ^^^ clmod a b) b = 0 := by
  obtain ⟨q, hq⟩ := exists_eq_clmul_xor_clmod a b
  refine clmod_eq_of_eq_clmul_xor (q := q) hb (Nat.two_pow_pos _) ?_
  nth_rw 1 [hq]
  rw [Nat.xor_xor_cancel_right, Nat.xor_zero]

end

/-- The remainder of a generator of length `r + 1` has `r` bits (44 R191). -/
theorem clmod_lt_of_generator {g : BVec} {r : Nat} (hfits : g.Fits) (hg : g.len = r + 1) (h0 : g.val ≠ 0) (a : Nat) :
    clmod a g.val < 2 ^ r := by
  have hlt := clmod_lt_len (a := a) h0 hfits.2
  rwa [hg, Nat.add_sub_cancel] at hlt

theorem val_ne_zero_of_elem {a : BVec} {i : Nat} (h : a.elem i = true) : a.val ≠ 0 := by
  intro h0
  simp [BVec.elem, h0] at h

/-! ### The columns of H -/

theorem le_of_mem_nonPowers {n v : Nat} (h : v ∈ nonPowers n) : v ≤ n := by
  have := List.mem_range'_1.1 (List.mem_of_mem_filter h)
  omega

/-- Every column has `r` bits when the numbers up to `k + r` have (46 R230, R231). -/
theorem colval_lt {k r : Nat} (hr : 1 ≤ r) (hn : k + r < 2 ^ r) (p : Nat) : colval k r p < 2 ^ r := by
  unfold colval
  split
  · rw [List.getD_eq_getElem?_getD]
    cases h : (nonPowers (k + r))[p - 1]? with
    | none => exact Nat.two_pow_pos r
    | some v => exact (le_of_mem_nonPowers (List.mem_of_getElem? h)).trans_lt hn
  · exact Nat.pow_lt_pow_right (by omega) (by omega)

@[simp] theorem xorColumns_nil (k r : Nat) (w : BVec) : xorColumns k r w [] = 0 := rfl

theorem xorColumns_concat (k r : Nat) (w : BVec) (ps : List Nat) (p : Nat) :
    xorColumns k r w (ps ++ [p]) =
      if w.elem (p - 1) then xorColumns k r w ps ^^^ colval k r p else xorColumns k r w ps := by
  rw [xorColumns, List.foldl_append]
  rfl

theorem xorColumns_lt {k r : Nat} (hr : 1 ≤ r) (hn : k + r < 2 ^ r) (w : BVec) (ps : List Nat) :
    xorColumns k r w ps < 2 ^ r := by
  induction ps using List.reverseRecOn with
  | nil => exact Nat.two_pow_pos r
  | append_singleton ps p ih =>
    rw [xorColumns_concat]
    split
    · exact Nat.xor_lt_two_pow ih (colval_lt hr hn p)
    · exact ih

theorem elem_xorAdd_of_len_eq {a b : BVec} (h : a.len = b.len) (i : Nat) :
    (a.xorAdd b).elem i = (a.elem i ^^ b.elem i) := by
  simp [BVec.elem, h]

/-- A column that both words select cancels out of the two sums, and their XOR does not select it. -/
theorem xorColumns_xorAdd {a b : BVec} (h : a.len = b.len) (k r : Nat) (ps : List Nat) :
    xorColumns k r (a.xorAdd b) ps = xorColumns k r a ps ^^^ xorColumns k r b ps := by
  induction ps using List.reverseRecOn with
  | nil => simp
  | append_singleton ps p ih =>
    simp only [xorColumns_concat, elem_xorAdd_of_len_eq h, ih]
    cases a.elem (p - 1) <;> cases b.elem (p - 1)
    · rfl
    · exact Nat.xor_assoc _ _ _
    · exact Nat.xor_right_comm _ _ _
    · calc xorColumns k r a ps ^^^ xorColumns k r b ps
          = xorColumns k r a ps ^^^ colval k r p ^^^ colval k r p ^^^ xorColumns k r b ps := by
            rw [Nat.xor_xor_cancel_right]
        _ = xorColumns k r a ps ^^^ colval k r p ^^^ (xorColumns k r b ps ^^^ colval k r p) := by ac_rfl

/-! ### The codewords -/

theorem polyCodeword_eq (k : Nat) {r : Nat} (a : BVec) {g : BVec} (hg : g.len = r + 1) :
    polyCodeword k r a g = ⟨k + r, a.val <<< r ^^^ clmod (a.val <<< r) g.val⟩ := by
  have hlen : max (k + r) (g.len - 1) = k + r := by omega
  exact congrArg (BVec.mk · _) hlen

theorem matCodeword_eq {k r : Nat} (hr : 1 ≤ r) (hn : k + r < 2 ^ r) (n : Nat) (a : BVec) :
    matCodeword k r n a = ⟨n, a.val <<< r ^^^ xorColumns k r a (List.range' 1 k)⟩ := by
  rw [matCodeword, shiftLeft_or_eq_shiftLeft_xor (xorColumns_lt hr hn a _)]

/-- Two words of one length, each with its check bits, add up to the sum's information bits above the sum's check
bits. -/
theorem xorAdd_shiftLeft_xor (n r a x b y : Nat) :
    BVec.xorAdd ⟨n, a <<< r ^^^ x⟩ ⟨n, b <<< r ^^^ y⟩ = ⟨n, (a ^^^ b) <<< r ^^^ (x ^^^ y)⟩ := by
  have hval : a <<< r ^^^ x ^^^ (b <<< r ^^^ y) = (a ^^^ b) <<< r ^^^ (x ^^^ y) := by
    rw [Nat.shiftLeft_xor_distrib]
    ac_rfl
  exact congrArg₂ BVec.mk (Nat.max_self n) hval

theorem polyCodeword_xorAdd (k : Nat) {r : Nat} (a b : BVec) {g : BVec} (hg : g.len = r + 1) (hg0 : g.val ≠ 0) :
    polyCodeword k r (a.xorAdd b) g = (polyCodeword k r a g).xorAdd (polyCodeword k r b g) := by
  rw [polyCodeword_eq k _ hg, polyCodeword_eq k a hg, polyCodeword_eq k b hg, xorAdd_shiftLeft_xor, BVec.val_xorAdd,
    ← clmod_xor_left hg0, Nat.shiftLeft_xor_distrib]

theorem matCodeword_xorAdd {k r : Nat} (hr : 1 ≤ r) (hn : k + r < 2 ^ r) (n : Nat) {a b : BVec} (h : a.len = b.len) :
    matCodeword k r n (a.xorAdd b) = (matCodeword k r n a).xorAdd (matCodeword k r n b) := by
  rw [matCodeword_eq hr hn, matCodeword_eq hr hn, matCodeword_eq hr hn, xorAdd_shiftLeft_xor, BVec.val_xorAdd,
    xorColumns_xorAdd h]

/-! ### The session -/

theorem hamOK_iff (p : Params) : p.hamOK = true ↔ HammingShape p := by
  simp [Params.hamOK, HammingShape, and_assoc]

/-- In a session of the Hamming shape every number up to PN has PR bits (46 R230). -/
theorem hammingShape_bounds {p : Params} (h : HammingShape p) :
    1 ≤ p.r.toNat ∧ p.k.toNat + p.r.toNat < 2 ^ p.r.toNat := by
  obtain ⟨-, hn, hr, hlog⟩ := h
  refine ⟨hr, ?_⟩
  rw [← hn, ← hlog]
  exact Nat.lt_log2_self

/-- The lengths of a consistent session (10_state R42 to R48). -/
theorem session_lengths {s : State} (hinv : s.Inv) (hmode : s.params.mode ≠ .none) :
    s.pk + s.pr = s.pn ∧ s.pn ≤ Config.W ∧ s.pkreq ≤ s.pk := by
  obtain ⟨-, ⟨-, hsession, -⟩, -⟩ := hinv
  obtain ⟨-, hn, hW, -, -, hle⟩ := hsession hmode
  exact ⟨hn.symm, Nat.le_of_succ_le hW, hle⟩

theorem WritesOnlyVec.err_eq_ok {s t : State} {rd : VIdx} {a : BVec} {x : Nat} (h : WritesOnlyVec s t rd a x) :
    t.err = .ok := by
  obtain ⟨⟨herr, -⟩, -⟩ := h
  exact herr

/-- A success that keeps the session and the configuration keeps the invariant. -/
theorem inv_of_completesOk {s t : State} {x : Nat} (hinv : s.Inv) (hok : CompletesOk t x)
    (hparams : t.params = s.params) (htables : t.tables = s.tables) : t.Inv := by
  obtain ⟨hwf, hsession, -⟩ := hinv
  obtain ⟨herr, -, hbusy, -⟩ := hok
  rw [State.Inv, hparams, htables, herr, hbusy]
  exact ⟨hwf, hsession, nofun, nofun, nofun⟩

/-! ### Completion of the encoders -/

theorem effectOf_encPoly_of_generator_len {s : State} (rd ra : VIdx) {rb : VIdx} (hmode : s.params.mode ≠ .none)
    (hg : (s.vec rb).len ≠ s.pr + 1) : effectOf (.encPoly rd ra rb) s = .error .invalidInput :=
  (if_neg hmode).trans (if_pos hg)

section
variable {s : State} {ra rb : VIdx} (rd : VIdx) (hmode : s.params.mode ≠ .none) (hg : (s.vec rb).len = s.pr + 1)
include hmode hg

theorem effectOf_encPoly_of_word_len (ha : (s.vec ra).len ≠ s.pkreq) (ha' : (s.vec ra).len ≠ s.pk) :
    effectOf (.encPoly rd ra rb) s = .error .invalidInput :=
  (if_neg hmode).trans ((if_neg (not_not.2 hg)).trans (if_pos ⟨ha, ha'⟩))

section
variable (ha : (s.vec ra).len = s.pkreq ∨ (s.vec ra).len = s.pk)
include ha

/-- Past the checks of the lengths, ENC.POLY asks whether the generator is 0 (44 R191). -/
theorem effectOf_encPoly_of_lens :
    effectOf (.encPoly rd ra rb) s =
      if (s.vec rb).val = 0 then .error .divisionByZero
      else writesVec rd (polyCodeword s.pk s.pr (s.vec ra) (s.vec rb)) s.pn :=
  (if_neg hmode).trans ((if_neg (not_not.2 hg)).trans (if_neg fun ⟨h, h'⟩ => ha.elim h h'))

theorem effectOf_encPoly_of_zero (h0 : (s.vec rb).val = 0) :
    effectOf (.encPoly rd ra rb) s = .error .divisionByZero :=
  (effectOf_encPoly_of_lens rd hmode hg ha).trans (if_pos h0)

/-- ENC.POLY writes the information word above its remainder (44 R191). -/
theorem exec_encPoly (hinv : s.Inv) (h0 : (s.vec rb).val ≠ 0) :
    ∃ t, exec (.encPoly rd ra rb) s = .next t ∧
      WritesOnlyVec s t rd
        ⟨s.pn, (s.vec ra).val <<< s.pr ^^^ clmod ((s.vec ra).val <<< s.pr) (s.vec rb).val⟩ s.pn := by
  obtain ⟨hn, hW, hle⟩ := session_lengths hinv hmode
  have hval : (s.vec ra).val < 2 ^ s.pk :=
    (s.vec_fits ra).2.trans_le (Nat.pow_le_pow_right (by omega) (by omega))
  have heffect := (effectOf_encPoly_of_lens rd hmode hg ha).trans (if_neg h0)
  rw [polyCodeword_eq _ _ hg, hn] at heffect
  exact exec_writesOnlyVec ⟨hW, hn ▸ shiftLeft_xor_lt (clmod_lt_of_generator (s.vec_fits rb) hg h0 _) hval⟩ heffect

end

end

theorem effectOf_encMat_of_len {s : State} (rd : VIdx) {ra : VIdx} (hshape : HammingShape s.params)
    (ha : (s.vec ra).len ≠ s.pk) : effectOf (.encMat rd ra) s = .error .invalidInput :=
  (if_neg (not_not.2 ((hamOK_iff _).2 hshape))).trans (if_pos ha)

/-- ENC.MAT writes the information word above the columns it selects (44 R192). -/
theorem exec_encMat {s : State} (rd : VIdx) {ra : VIdx} (hinv : s.Inv) (hshape : HammingShape s.params)
    (ha : (s.vec ra).len = s.pk) :
    ∃ t, exec (.encMat rd ra) s = .next t ∧
      WritesOnlyVec s t rd
        ⟨s.pn, (s.vec ra).val <<< s.pr ^^^ xorColumns s.pk s.pr (s.vec ra) (List.range' 1 s.pk)⟩ s.pn := by
  obtain ⟨hr, hlt⟩ : 1 ≤ s.pr ∧ s.pk + s.pr < 2 ^ s.pr := hammingShape_bounds hshape
  obtain ⟨hn, hW, -⟩ := session_lengths hinv (by simp [hshape.1])
  have hval : (s.vec ra).val < 2 ^ s.pk := ha ▸ (s.vec_fits ra).2
  have heffect : effectOf (.encMat rd ra) s = writesVec rd (matCodeword s.pk s.pr s.pn (s.vec ra)) s.pn :=
    (if_neg (not_not.2 ((hamOK_iff _).2 hshape))).trans (if_neg (not_not.2 ha))
  rw [matCodeword_eq hr hlt] at heffect
  exact exec_writesOnlyVec ⟨hW, hn ▸ shiftLeft_xor_lt (xorColumns_lt hr hlt _ _) hval⟩ heffect

/-! ### Completion of INFO and of a decoder -/

theorem effectOf_info_of_len {s : State} (rd : VIdx) {ra : VIdx} (hmode : s.params.mode ≠ .none)
    (hc : (s.vec ra).len ≠ s.pn) : effectOf (.info rd ra) s = .error .invalidInput :=
  (if_neg hmode).trans (if_pos hc)

/-- INFO writes the low PKREQ bits of the information bits (44 R193). -/
theorem exec_info {s : State} (rd : VIdx) {ra : VIdx} (hinv : s.Inv) (hmode : s.params.mode ≠ .none)
    (hc : (s.vec ra).len = s.pn) :
    ∃ t, exec (.info rd ra) s = .next t ∧
      WritesOnlyVec s t rd ⟨s.pkreq, (s.vec ra).val >>> s.pr % 2 ^ s.pkreq⟩ s.pkreq := by
  obtain ⟨hn, hW, hle⟩ := session_lengths hinv hmode
  exact exec_writesOnlyVec ⟨show s.pkreq ≤ Config.W by omega, Nat.mod_lt _ (Nat.two_pow_pos _)⟩
    ((if_neg hmode).trans (if_neg (not_not.2 hc)))

/-- INFO takes an information word of length PKREQ back from above any check bits (44 R194 (d)). -/
theorem exec_info_of_shiftLeft_xor {s : State} (rd : VIdx) {ra : VIdx} {a : BVec} {x : Nat} (hinv : s.Inv)
    (hmode : s.params.mode ≠ .none) (ha : a.Fits) (hlen : a.len = s.pkreq) (hx : x < 2 ^ s.pr)
    (hc : s.vec ra = ⟨s.pn, a.val <<< s.pr ^^^ x⟩) :
    ∃ t, exec (.info rd ra) s = .next t ∧ t.err = .ok ∧ t.vec rd = a := by
  obtain ⟨t, hexec, hwrites⟩ := exec_info rd hinv hmode (congrArg BVec.len hc)
  refine ⟨t, hexec, hwrites.err_eq_ok, ?_⟩
  rw [hwrites.vec_eq, hc, shiftLeft_xor_shiftRight hx, ← hlen, Nat.mod_eq_of_lt ha.2]

/-- The last `m` of a word's elements above its low `r` bits, counted from the left. -/
theorem elem_infoWord {c : BVec} {k r m j : Nat} (hlen : c.len = k + r) (hm : m ≤ k) (hj : j < m) :
    (infoWord m r c).elem j = c.elem (k - m + j) := by
  simp only [infoWord, BVec.elem, Nat.testBit_mod_two_pow, Nat.testBit_shiftRight]
  rw [show c.len - 1 - (k - m + j) = r + (m - 1 - j) by omega]
  simp [show m - 1 - j < m by omega]

/-- A decode command whose rule gives a vector that fits, a status and a scalar writes these alone (45 R210). -/
theorem exec_writesOnlyDecoded {i : Instr} {s : State} {rd : VIdx} {a : BVec} {d : DStat} {x : Nat} (ha : a.Fits)
    (h : effectOf i s = writesDecoded rd a d x) : ∃ t, exec i s = .next t ∧ WritesOnlyDecoded s t rd a d x := by
  refine ⟨_, exec_eq_complete i s, ?_⟩
  rw [h]
  obtain ⟨hvec, hlen, hdata, hothers⟩ := s.succeed_vec rd a x none (some d) ha
  exact ⟨⟨rfl, rfl, rfl, rfl⟩, ⟨hvec, hlen, hdata⟩, rfl, hothers, rfl, s.keepsHostSide_complete _⟩

/-- From a multiple of the generator DEC.CYC reports NoError and gives the word back, whatever `cap` (45 R211). -/
theorem exec_decCyc_of_multiple {s : State} (rd : VIdx) {ra rb : VIdx} (cap : Nat)
    (hlen : (s.vec rb).len - 1 ≤ (s.vec ra).len) (h0 : (s.vec rb).val ≠ 0)
    (hmul : clmod (s.vec ra).val (s.vec rb).val = 0) :
    ∃ t, exec (.decCyc rd ra rb cap) s = .next t ∧ WritesOnlyDecoded s t rd (s.vec ra) .noError 0 :=
  exec_writesOnlyDecoded (s.vec_fits ra)
    ((if_neg (Nat.not_lt.2 hlen)).trans ((if_neg h0).trans (if_pos hmul)))

/-- DEC.CYC keeps the word ENC.POLY wrote: it is a multiple of the generator, which the encoder left in its register
(44 R194 (b), 45 R213 (a)). -/
theorem exec_encPoly_decCyc {s : State} {a b g : VIdx} (cap : Nat) (hinv : s.Inv) (hmode : s.params.mode ≠ .none)
    (hg : (s.vec g).len = s.pr + 1) (ha : (s.vec a).len = s.pkreq ∨ (s.vec a).len = s.pk) (h0 : (s.vec g).val ≠ 0)
    (hbg : b ≠ g) :
    ∃ t₁ t₂, exec (.encPoly b a g) s = .next t₁ ∧ exec (.decCyc b b g cap) t₁ = .next t₂ ∧ t₂.dstat = .noError ∧
      t₂.vec b = t₁.vec b ∧ t₂.Inv ∧ t₂.params = s.params ∧
      t₂.vec b = ⟨s.pn, (s.vec a).val <<< s.pr ^^^ clmod ((s.vec a).val <<< s.pr) (s.vec g).val⟩ := by
  obtain ⟨hn, -, -⟩ := session_lengths hinv hmode
  obtain ⟨t₁, hexec₁, hwrites₁⟩ := exec_encPoly b hmode hg ha hinv h0
  have hword := hwrites₁.vec_eq
  obtain ⟨-, -, hothers₁, hparams₁, -, -, -, -, htables₁, -⟩ := hwrites₁
  have hkeep : t₁.vec g = s.vec g := congrArg VReg.toBVec (hothers₁ g hbg.symm)
  have hlen : (t₁.vec g).len - 1 ≤ (t₁.vec b).len := by
    rw [hkeep, hg, hword, Nat.add_sub_cancel, ← hn]
    exact Nat.le_add_left _ _
  have hmul : clmod (t₁.vec b).val (t₁.vec g).val = 0 := by rw [hkeep, hword, clmod_xor_clmod h0]
  obtain ⟨t₂, hexec₂, hok₂, ⟨hvec₂, -⟩, hdstat₂, -, hparams₂, -, -, -, htables₂, -⟩ :=
    exec_decCyc_of_multiple b cap hlen (hkeep ▸ h0) hmul
  have hparams : t₂.params = s.params := hparams₂.trans hparams₁
  exact ⟨t₁, t₂, hexec₁, hexec₂, hdstat₂, hvec₂, inv_of_completesOk hinv hok₂ hparams (htables₂.trans htables₁),
    hparams, hvec₂.trans hword⟩

end Sys2Proof.Machine

namespace Sys2Proof.Proofs

open Sys2Proof.Machine

/-- Settles O21: the errors in the order of the rule's checks, and the word read back as its high and its low bits. -/
theorem encPolyWritesSystematicWord : Obligations.EncPolyWritesSystematicWord := by
  unfold Obligations.EncPolyWritesSystematicWord
  intro s rd ra rb
  refine ⟨fun h => exec_eq_failed (if_pos h),
    fun hmode hg => exec_eq_failed (effectOf_encPoly_of_generator_len rd ra hmode hg),
    fun hmode hg ha ha' => exec_eq_failed (effectOf_encPoly_of_word_len rd hmode hg ha ha'),
    fun hmode hg ha h0 => exec_eq_failed (effectOf_encPoly_of_zero rd hmode hg ha h0), fun hinv hmode hg ha h0 => ?_⟩
  obtain ⟨t, hexec, hwrites⟩ := exec_encPoly rd hmode hg ha hinv h0
  have hrem := clmod_lt_of_generator (s.vec_fits rb) hg h0 ((s.vec ra).val <<< s.pr)
  exact ⟨t, _, hexec, hwrites, shiftLeft_xor_shiftRight hrem _, shiftLeft_xor_mod_two_pow hrem _⟩

/-- Settles O22: the word is a dividend less its remainder. -/
theorem encPolyWordIsMultipleOfGenerator : Obligations.EncPolyWordIsMultipleOfGenerator := by
  unfold Obligations.EncPolyWordIsMultipleOfGenerator
  intro s rd ra rb hinv hmode hg ha hlead
  have h0 := val_ne_zero_of_elem hlead
  obtain ⟨t, hexec, hwrites⟩ := exec_encPoly rd hmode hg ha hinv h0
  exact ⟨t, hexec, hwrites.err_eq_ok, by rw [hwrites.vec_eq, clmod_xor_clmod h0]⟩

/-- Settles O23: the errors in the order of the rule's checks, and the word read back as its high and its low bits. -/
theorem encMatWritesCodeword : Obligations.EncMatWritesCodeword := by
  unfold Obligations.EncMatWritesCodeword
  intro s rd ra
  refine ⟨fun h => exec_eq_failed (if_pos ((hamOK_iff _).not.2 h)),
    fun hshape ha => exec_eq_failed (effectOf_encMat_of_len rd hshape ha), fun hinv hshape ha => ?_⟩
  obtain ⟨t, hexec, hwrites⟩ := exec_encMat rd hinv hshape ha
  obtain ⟨hr, hlt⟩ : 1 ≤ s.pr ∧ s.pk + s.pr < 2 ^ s.pr := hammingShape_bounds hshape
  have hcheck := xorColumns_lt hr hlt (s.vec ra) (List.range' 1 s.pk)
  exact ⟨t, _, hexec, hwrites, shiftLeft_xor_shiftRight hcheck _, shiftLeft_xor_mod_two_pow hcheck _⟩

/-- Settles O24: the information bits above the check bits, cut to PKREQ and read element by element. -/
theorem infoReturnsInformationElements : Obligations.InfoReturnsInformationElements := by
  unfold Obligations.InfoReturnsInformationElements
  intro s rd ra
  refine ⟨fun h => exec_eq_failed (if_pos h),
    fun hmode hc => exec_eq_failed (effectOf_info_of_len rd hmode hc), fun hinv hmode hc => ?_⟩
  obtain ⟨t, hexec, hwrites⟩ := exec_info rd hinv hmode hc
  obtain ⟨hn, -, hle⟩ := session_lengths hinv hmode
  refine ⟨t, hexec, hwrites, fun j hj => ?_⟩
  rw [hwrites.vec_eq]
  exact elem_infoWord (hc.trans hn.symm) hle hj

/-- Settles O25: shifting, the remainder and the sum of the selected columns are each linear. -/
theorem encodersAreLinear : Obligations.EncodersAreLinear := by
  unfold Obligations.EncodersAreLinear
  intro cfg p a b _ _ _ _
  refine ⟨fun g _ _ h0 hg _ => polyCodeword_xorAdd _ a b hg h0, fun hshape ha hb => ?_⟩
  obtain ⟨hr, hlt⟩ := hammingShape_bounds hshape
  exact matCodeword_xorAdd hr hlt _ (ha.trans hb.symm)

/-- Settles O30: the codeword is a multiple of the generator, so the decoder keeps it, and INFO undoes the shift. -/
theorem cyclicRoundTripWithoutErrors : Obligations.CyclicRoundTripWithoutErrors := by
  unfold Obligations.CyclicRoundTripWithoutErrors
  intro s a b g cap hinv hmode hg hlead ha hbg
  have h0 := val_ne_zero_of_elem hlead
  have hrem := clmod_lt_of_generator (s.vec_fits g) hg h0 ((s.vec a).val <<< s.pr)
  obtain ⟨t₁, t₂, hexec₁, hexec₂, hdstat, hkept, hinv₂, hparams, hword⟩ :=
    exec_encPoly_decCyc cap hinv hmode hg (.inl ha) h0 hbg
  obtain ⟨t₃, hexec₃, herr, hinfo⟩ := exec_info_of_shiftLeft_xor b hinv₂ (by rwa [hparams]) (s.vec_fits a)
    (by rwa [State.pkreq, hparams]) (by simpa only [State.pr, hparams] using hrem)
    (by simpa only [State.pn, State.pr, hparams] using hword)
  exact ⟨t₁, t₂, t₃, hexec₁, hexec₂, hdstat, hkept, hexec₃, herr, hinfo⟩

end Sys2Proof.Proofs

end

section
/-! PROOFS. The matrix H and the syndrome: the columns of H are nonzero and different, inverting the element at position p
adds column p to the syndrome of a word, and a word of information bits above the sum of the columns they select has
syndrome 0 (46_hamming_ecc_engine R230 to R234, 44_systematic_encoder R194 (c)). -/

namespace Sys2Proof.Machine

/-! ### The numbers that are no powers of two -/

theorem ispow2_iff {j : Nat} (hj : j ≠ 0) : ispow2 j = true ↔ ∃ e, j = 2 ^ e := by
  rw [ispow2, beq_iff_eq]
  exact Nat.and_sub_one_eq_zero_iff_isPowerOfTwo hj

theorem mem_nonPowers {n v : Nat} : v ∈ nonPowers n ↔ (1 ≤ v ∧ v ≤ n) ∧ ∀ e, v ≠ 2 ^ e := by
  rw [nonPowers, List.mem_filter, List.mem_range'_1, Nat.add_comm 1 n, Nat.lt_succ_iff]
  refine and_congr_right fun ⟨hv, _⟩ => ?_
  rw [Bool.not_eq_true', ← Bool.not_eq_true, ispow2_iff (by omega), not_exists]

theorem pairwise_lt_nonPowers (n : Nat) : (nonPowers n).Pairwise (· < ·) := (List.pairwise_lt_range' 1).filter _

/-- In a session of the Hamming shape 1..n reaches every power of two of `r` bits (46 R230). -/
theorem two_pow_le_of_hammingShape {p : Params} (h : HammingShape p) :
    ∀ e < p.r.toNat, 2 ^ e ≤ p.k.toNat + p.r.toNat := by
  intro e he
  obtain ⟨-, hn, hr, hlog⟩ := h
  rw [← hlog] at he
  rw [← hn]
  exact (Nat.le_log2 (by omega)).1 (Nat.le_of_lt_succ he)

theorem pn_of_hammingShape {s : State} (h : HammingShape s.params) : s.pn = s.pk + s.pr := by
  obtain ⟨-, hn, -⟩ := h
  exact hn

/-! ### The columns of H -/

theorem colval_of_le (r : Nat) {k p : Nat} (h : p ≤ k) : colval k r p = (nonPowers (k + r)).getD (p - 1) 0 := if_pos h

theorem colval_of_lt (r : Nat) {k p : Nat} (h : k < p) : colval k r p = 2 ^ (r - (p - k)) := if_neg (Nat.not_le.2 h)

section
variable {k r : Nat} (hlow : ∀ e < r, 2 ^ e ≤ k + r) (hhigh : k + r < 2 ^ r)
include hlow hhigh

/-- 1..n holds the `r` powers of two below 2^r, and `k` other numbers. -/
theorem length_nonPowers : (nonPowers (k + r)).length = k := by
  have hcongr : nonPowers (k + r) = (List.range' 1 (k + r)).filter fun j => ¬ ∃ e < r, j = 2 ^ e := by
    refine List.filter_congr fun j hj => ?_
    obtain ⟨hj, hle⟩ := List.mem_range'_1.1 hj
    have hpow : (∃ e, j = 2 ^ e) ↔ ∃ e < r, j = 2 ^ e := by
      refine exists_congr fun e => ⟨fun h => ⟨?_, h⟩, And.right⟩
      exact (Nat.pow_lt_pow_iff_right (a := 2) (by omega)).1 (by omega)
    rw [Bool.eq_iff_iff, decide_eq_true_iff, Bool.not_eq_true', ← Bool.not_eq_true, ispow2_iff (by omega), hpow]
  rw [hcongr, length_filter_not_two_pow hlow, Nat.add_sub_cancel]

theorem colval_eq_getElem {p : Nat} (h1 : 1 ≤ p) (hk : p ≤ k) :
    colval k r p = (nonPowers (k + r))[p - 1]'(by rw [length_nonPowers hlow hhigh]; omega) := by
  rw [colval_of_le r hk, List.getD_eq_getElem]

theorem colval_mem_nonPowers {p : Nat} (h1 : 1 ≤ p) (hk : p ≤ k) : colval k r p ∈ nonPowers (k + r) := by
  rw [colval_eq_getElem hlow hhigh h1 hk]
  exact List.getElem_mem _

/-- The columns of A ascend (46 R231). -/
theorem colval_lt_colval {p q : Nat} (h1 : 1 ≤ p) (hlt : p < q) (hk : q ≤ k) : colval k r p < colval k r q := by
  rw [colval_eq_getElem hlow hhigh h1 (by omega), colval_eq_getElem hlow hhigh (by omega) hk]
  exact List.pairwise_iff_getElem.1 (pairwise_lt_nonPowers _) _ _ _ _ (by omega)

/-- No column is 0 (46 R233 (a)). -/
theorem colval_ne_zero {p : Nat} (h1 : 1 ≤ p) : colval k r p ≠ 0 := by
  rcases Nat.lt_or_ge k p with hk | hk
  · rw [colval_of_lt r hk]
    exact (Nat.two_pow_pos _).ne'
  · obtain ⟨⟨hpos, -⟩, -⟩ := mem_nonPowers.1 (colval_mem_nonPowers hlow hhigh h1 hk)
    omega

/-- A column of A differs from a later one of A, which is greater, and from those of the identity, which are powers
of two; and these differ from one another by their exponents (46 R233 (a)). -/
theorem colval_ne_colval {p q : Nat} (h1 : 1 ≤ p) (hlt : p < q) (hn : q ≤ k + r) : colval k r p ≠ colval k r q := by
  rcases Nat.lt_or_ge k q with hq | hq
  · rw [colval_of_lt r hq]
    rcases Nat.lt_or_ge k p with hp | hp
    · rw [colval_of_lt r hp]
      exact (Nat.pow_right_injective le_rfl).ne (by omega)
    · obtain ⟨-, hpow⟩ := mem_nonPowers.1 (colval_mem_nonPowers hlow hhigh h1 hp)
      exact hpow _
  · exact (colval_lt_colval hlow hhigh h1 hlt hq).ne

end

/-! ### Sums of columns -/

theorem xorColumns_append (k r : Nat) (w : BVec) (ps qs : List Nat) :
    xorColumns k r w (ps ++ qs) = xorColumns k r w ps ^^^ xorColumns k r w qs := by
  induction qs using List.reverseRecOn with
  | nil => simp
  | append_singleton qs q ih =>
    rw [← List.append_assoc, xorColumns_concat, xorColumns_concat, ih]
    split
    · exact Nat.xor_assoc _ _ _
    · rfl

/-- The sum depends on the elements that select its columns alone. -/
theorem xorColumns_congr (k r : Nat) {w w' : BVec} {ps : List Nat} (h : ∀ p ∈ ps, w.elem (p - 1) = w'.elem (p - 1)) :
    xorColumns k r w ps = xorColumns k r w' ps := by
  induction ps using List.reverseRecOn with
  | nil => rfl
  | append_singleton ps p ih =>
    rw [xorColumns_concat, xorColumns_concat, h p (by simp), ih fun q hq => h q (by simp [hq])]

/-- A word whose only 1 is at position `p` selects column `p`. -/
theorem xorColumns_unit (k r : Nat) {n p : Nat} (h1 : 1 ≤ p) (hn : p ≤ n) :
    xorColumns k r ⟨n, 2 ^ (n - 1 - (p - 1))⟩ (List.range' 1 n) = colval k r p := by
  have hsum : ∀ m ≤ n, xorColumns k r ⟨n, 2 ^ (n - 1 - (p - 1))⟩ (List.range' 1 m) =
      if p ≤ m then colval k r p else 0 := by
    intro m hm
    induction m with
    | zero => simp [show p ≠ 0 by omega]
    | succ m ih =>
      rw [List.range'_1_concat, xorColumns_concat, ih (by omega), BVec.elem, Nat.testBit_two_pow]
      rcases eq_or_ne p (m + 1) with rfl | hp
      · simp [Nat.add_comm]
      · simp [show n - 1 - (p - 1) ≠ n - 1 - m by omega, show p ≤ m + 1 ↔ p ≤ m by omega]
  rw [hsum n le_rfl, if_pos hn]

/-- The first `m` columns of the identity are 2^(r-1) down to 2^(r-m), and each is selected by the element that is that
bit of the word: their sum holds these bits of the word. -/
theorem testBit_xorColumns_identity {k r : Nat} {w : BVec} (hlen : w.len = k + r) {m : Nat} (hm : m ≤ r) (b : Nat) :
    (xorColumns k r w (List.range' (1 + k) m)).testBit b =
      (decide (r - m ≤ b) && (decide (b < r) && w.val.testBit b)) := by
  induction m with
  | zero =>
    rcases Nat.lt_or_ge b r with h | h
    · simp [Nat.not_le.2 h]
    · simp [Nat.not_lt.2 h]
  | succ m ih =>
    have hterm : xorColumns k r w (List.range' (1 + k) (m + 1)) =
        xorColumns k r w (List.range' (1 + k) m) ^^^ if w.val.testBit (r - (m + 1)) then 2 ^ (r - (m + 1)) else 0 := by
      rw [List.range'_1_concat, xorColumns_concat, colval_of_lt r (show k < 1 + k + m by omega), BVec.elem, hlen,
        show k + r - 1 - (1 + k + m - 1) = r - (m + 1) by omega, show 1 + k + m - k = m + 1 by omega]
      split <;> simp
    rw [hterm, Nat.testBit_xor, ih (by omega), apply_ite (Nat.testBit · b), Nat.testBit_two_pow, Nat.zero_testBit]
    rcases eq_or_ne (r - (m + 1)) b with rfl | hb
    · simp [show ¬ r - m ≤ r - (m + 1) by omega, show r - (m + 1) < r by omega]
    · simp [hb, show r - m ≤ b ↔ r - (m + 1) ≤ b by omega]

theorem xorColumns_identity {k r : Nat} {w : BVec} (hlen : w.len = k + r) :
    xorColumns k r w (List.range' (1 + k) r) = w.val % 2 ^ r := by
  apply Nat.eq_of_testBit_eq
  intro b
  simp [testBit_xorColumns_identity hlen le_rfl, Nat.testBit_mod_two_pow]

/-! ### The syndrome -/

/-- The syndrome of a word of information bits above check bits: the columns of A that the information selects, and
the check bits (46 R233, R234). -/
theorem matSyndrome_shiftLeft_xor {k r x : Nat} {a : BVec} (ha : a.Fits) (hlen : a.len = k) (hx : x < 2 ^ r) :
    matSyndrome k r (k + r) ⟨k + r, a.val <<< r ^^^ x⟩ = xorColumns k r a (List.range' 1 k) ^^^ x := by
  have hinfo : infoWord k r ⟨k + r, a.val <<< r ^^^ x⟩ = a := by
    rw [infoWord, shiftLeft_xor_shiftRight hx, ← hlen, Nat.mod_eq_of_lt ha.2]
  have helem : ∀ p ∈ List.range' 1 k, BVec.elem ⟨k + r, a.val <<< r ^^^ x⟩ (p - 1) = a.elem (p - 1) := by
    intro p hp
    obtain ⟨hp1, hpk⟩ := List.mem_range'_1.1 hp
    have h := elem_infoWord (c := ⟨k + r, a.val <<< r ^^^ x⟩) rfl le_rfl (show p - 1 < k by omega)
    rw [hinfo, Nat.sub_self, Nat.zero_add] at h
    exact h.symm
  rw [matSyndrome, ← List.range'_append_1, xorColumns_append, xorColumns_congr k r helem, xorColumns_identity rfl,
    shiftLeft_xor_mod_two_pow hx]

/-- Every codeword is orthogonal to H (46 R233 (b), 44 R194 (c)). -/
theorem matSyndrome_matCodeword {k r : Nat} (hr : 1 ≤ r) (hn : k + r < 2 ^ r) {a : BVec} (ha : a.Fits)
    (hlen : a.len = k) : matSyndrome k r (k + r) (matCodeword k r (k + r) a) = 0 := by
  rw [matCodeword_eq hr hn, matSyndrome_shiftLeft_xor ha hlen (xorColumns_lt hr hn a _), Nat.xor_self]

end Sys2Proof.Machine

namespace Sys2Proof.BVec

open Sys2Proof.Machine

/-! ### A word with one element inverted -/

/-- Inverting element `i` adds the word whose only 1 is that element. -/
theorem flip_eq_xorAdd (a : BVec) (i : Nat) : a.flip i = a.xorAdd ⟨a.len, 2 ^ (a.len - 1 - i)⟩ :=
  congrArg (BVec.mk · _) (Nat.max_self _).symm

theorem flip_flip (a : BVec) (i : Nat) : (a.flip i).flip i = a :=
  congrArg (BVec.mk _) (Nat.xor_xor_cancel_right _ _)

theorem flip_fits {a : BVec} (ha : a.Fits) {i : Nat} (hi : i < a.len) : (a.flip i).Fits :=
  ⟨ha.1, Nat.xor_lt_two_pow ha.2 (Nat.pow_lt_pow_right (by omega) (show a.len - 1 - i < a.len by omega))⟩

theorem elem_flip {a : BVec} {i j : Nat} (hi : i < a.len) (hj : j < a.len) :
    (a.flip i).elem j = (a.elem j ^^ decide (j = i)) := by
  rw [elem, elem, flip, Nat.testBit_xor, Nat.testBit_two_pow]
  simp [show a.len - 1 - i = a.len - 1 - j ↔ j = i by omega]

end Sys2Proof.BVec

namespace Sys2Proof.Machine

/-- Inverting the element at position `p` adds column `p` to the syndrome (45 R213 (b)). -/
theorem matSyndrome_flip (k r : Nat) {w : BVec} {p : Nat} (h1 : 1 ≤ p) (hn : p ≤ w.len) :
    matSyndrome k r w.len (w.flip (p - 1)) = matSyndrome k r w.len w ^^^ colval k r p := by
  have hlen : w.len = BVec.len ⟨w.len, 2 ^ (w.len - 1 - (p - 1))⟩ := rfl
  rw [BVec.flip_eq_xorAdd, matSyndrome, xorColumns_xorAdd hlen, xorColumns_unit k r h1 hn, matSyndrome]

end Sys2Proof.Machine

end

section
/-! PROOFS. The syndrome_decoder unit: the cyclic search stops at the first rotation whose syndrome is light enough,
DEC.MAT inverts the element whose column is the syndrome, and so corrects every single error of a Hamming codeword
(45_syndrome_decoder R211 to R214). -/

namespace Sys2Proof.Machine

/-! ### The cyclic search -/

theorem cyclicSearch_succ_of_lt {g cur : BVec} {cap : Nat} (left c : Nat)
    (h : cap < (rotatedSyndrome cur g 0).weight) :
    cyclicSearch g cap (left + 1) c cur = cyclicSearch g cap left (c + 1) cur.rotl :=
  if_neg (Nat.not_le.2 h)

/-- The search answers nothing when no rotation it tries is light enough (45 R211). -/
theorem cyclicSearch_eq_none {g : BVec} {cap left : Nat} (c : Nat) {cur : BVec}
    (h : ∀ i < left, cap < (rotatedSyndrome cur g i).weight) : cyclicSearch g cap left c cur = none := by
  induction left generalizing c cur with
  | zero => rfl
  | succ left ih =>
    rw [cyclicSearch_succ_of_lt left c (h 0 left.succ_pos)]
    exact ih (c + 1) fun i hi => h (i + 1) (Nat.succ_lt_succ hi)

/-- The search answers at the first rotation that is light enough (45 R211). -/
theorem cyclicSearch_eq_some {g : BVec} {cap left i : Nat} (c : Nat) {cur : BVec} (hi : i < left)
    (hle : (rotatedSyndrome cur g i).weight ≤ cap) (hlt : ∀ j < i, cap < (rotatedSyndrome cur g j).weight) :
    cyclicSearch g cap left c cur =
      some (c + i, ((cur.rotlTimes i).xorAdd (rotatedSyndrome cur g i)).rotrTimes (c + i)) := by
  induction left generalizing i c cur with
  | zero => exact absurd hi (Nat.not_lt_zero i)
  | succ left ih =>
    cases i with
    | zero => exact if_pos hle
    | succ i =>
      rw [cyclicSearch_succ_of_lt left c (hlt 0 i.succ_pos),
        ih (c + 1) (Nat.lt_of_succ_lt_succ hi) hle fun j hj => hlt (j + 1) (Nat.succ_lt_succ hj),
        Nat.add_right_comm, Nat.add_assoc]
      rfl

section
variable {s : State} {ra rb : VIdx} (rd : VIdx) {cap : Nat} (hlen : (s.vec rb).len - 1 ≤ (s.vec ra).len)
include hlen

theorem effectOf_decCyc_of_zero (h0 : (s.vec rb).val = 0) :
    effectOf (.decCyc rd ra rb cap) s = .error .divisionByZero :=
  (if_neg (Nat.not_lt.2 hlen)).trans (if_pos h0)

section
variable (h0 : (s.vec rb).val ≠ 0) (hsyn : clmod (s.vec ra).val (s.vec rb).val ≠ 0)
include h0 hsyn

theorem effectOf_decCyc_of_none (h : cyclicSearch (s.vec rb) cap (s.vec ra).len 0 (s.vec ra) = none) :
    effectOf (.decCyc rd ra rb cap) s = writesDecoded rd (s.vec ra) .uncorrectable (s.vec ra).len :=
  (if_neg (Nat.not_lt.2 hlen)).trans ((if_neg h0).trans ((if_neg hsyn).trans (by rw [h])))

theorem effectOf_decCyc_of_some {c : Nat} {x : BVec}
    (h : cyclicSearch (s.vec rb) cap (s.vec ra).len 0 (s.vec ra) = some (c, x)) :
    effectOf (.decCyc rd ra rb cap) s = writesDecoded rd x .corrected c :=
  (if_neg (Nat.not_lt.2 hlen)).trans ((if_neg h0).trans ((if_neg hsyn).trans (by rw [h])))

end

end

/-! ### The column search -/

/-- The search finds the one position of a column (45 R212, 46 R233 (a)). -/
theorem columnPosition_colval {k r p : Nat} (hlow : ∀ e < r, 2 ^ e ≤ k + r) (hhigh : k + r < 2 ^ r) (h1 : 1 ≤ p)
    (hn : p ≤ k + r) : columnPosition k r (k + r) (colval k r p) = some p := by
  refine List.find?_range'_eq_some.2 ⟨beq_self_eq_true _, List.mem_range'_1.2 ⟨h1, by omega⟩, fun j hj hlt => ?_⟩
  simpa using colval_ne_colval hlow hhigh hj hlt hn

theorem columnPosition_eq_none {k r n syn : Nat} (h : ∀ p, 1 ≤ p → p ≤ n → colval k r p ≠ syn) :
    columnPosition k r n syn = none :=
  List.find?_range'_eq_none.2 fun p h1 hn => by simpa using h p h1 (by omega)

/-! ### Completion of DEC.MAT -/

section
variable {s : State} (rd : VIdx) {ra : VIdx} (hshape : HammingShape s.params)
include hshape

theorem effectOf_decMat_of_len (hlen : (s.vec ra).len ≠ s.pn) :
    effectOf (.decMat rd ra) s = .error .invalidInput :=
  (if_neg (not_not.2 ((hamOK_iff _).2 hshape))).trans (if_pos hlen)

section
variable (hlen : (s.vec ra).len = s.pn)
include hlen

/-- From a word of syndrome 0 DEC.MAT reports NoError and gives the word back (45 R212). -/
theorem exec_decMat_of_syndrome_zero (hsyn : matSyndrome s.pk s.pr s.pn (s.vec ra) = 0) :
    ∃ t, exec (.decMat rd ra) s = .next t ∧ WritesOnlyDecoded s t rd (s.vec ra) .noError 0 :=
  exec_writesOnlyDecoded (s.vec_fits ra)
    ((if_neg (not_not.2 ((hamOK_iff _).2 hshape))).trans ((if_neg (not_not.2 hlen)).trans (if_pos hsyn)))

section
variable (hsyn : matSyndrome s.pk s.pr s.pn (s.vec ra) ≠ 0)
include hsyn

theorem effectOf_decMat_of_some {q : Nat}
    (h : columnPosition s.pk s.pr s.pn (matSyndrome s.pk s.pr s.pn (s.vec ra)) = some q) :
    effectOf (.decMat rd ra) s = writesDecoded rd ((s.vec ra).flip (q - 1)) .corrected q :=
  (if_neg (not_not.2 ((hamOK_iff _).2 hshape))).trans
    ((if_neg (not_not.2 hlen)).trans ((if_neg hsyn).trans (by rw [← State.pk, ← State.pr, ← State.pn, h])))

theorem effectOf_decMat_of_none
    (h : columnPosition s.pk s.pr s.pn (matSyndrome s.pk s.pr s.pn (s.vec ra)) = none) :
    effectOf (.decMat rd ra) s = writesDecoded rd (s.vec ra) .undeterminedError 0 :=
  (if_neg (not_not.2 ((hamOK_iff _).2 hshape))).trans
    ((if_neg (not_not.2 hlen)).trans ((if_neg hsyn).trans (by rw [← State.pk, ← State.pr, ← State.pn, h])))

end

/-- From a word whose syndrome is column `p` DEC.MAT inverts the element at position `p` (45 R212). -/
theorem exec_decMat_of_column {p : Nat} (h1 : 1 ≤ p) (hp : p ≤ s.pn)
    (hcol : colval s.pk s.pr p = matSyndrome s.pk s.pr s.pn (s.vec ra)) :
    ∃ t, exec (.decMat rd ra) s = .next t ∧ WritesOnlyDecoded s t rd ((s.vec ra).flip (p - 1)) .corrected p := by
  have hn := pn_of_hammingShape hshape
  have hlow : ∀ e < s.pr, 2 ^ e ≤ s.pk + s.pr := two_pow_le_of_hammingShape hshape
  obtain ⟨-, hhigh⟩ : 1 ≤ s.pr ∧ s.pk + s.pr < 2 ^ s.pr := hammingShape_bounds hshape
  have hfind := columnPosition_colval hlow hhigh h1 (hn ▸ hp)
  rw [← hn, hcol] at hfind
  exact exec_writesOnlyDecoded (BVec.flip_fits (s.vec_fits ra) (by omega))
    (effectOf_decMat_of_some rd hshape hlen (hcol ▸ colval_ne_zero hlow hhigh h1) hfind)

end

/-- DEC.MAT undoes the inversion of any one element of a word of syndrome 0 (45 R213 (b)). -/
theorem exec_decMat_of_flip {c : BVec} {p : Nat} (hlen : c.len = s.pn) (hsyn : matSyndrome s.pk s.pr s.pn c = 0)
    (h1 : 1 ≤ p) (hp : p ≤ s.pn) (hword : s.vec ra = c.flip (p - 1)) :
    ∃ t, exec (.decMat rd ra) s = .next t ∧ WritesOnlyDecoded s t rd c .corrected p := by
  have hcol : colval s.pk s.pr p = matSyndrome s.pk s.pr s.pn (s.vec ra) := by
    rw [← hlen] at hsyn hp ⊢
    rw [hword, matSyndrome_flip s.pk s.pr h1 hp, hsyn, Nat.zero_xor]
  have hexec := exec_decMat_of_column rd hshape (ra := ra) (by rw [hword, BVec.len_flip, hlen]) h1 hp hcol
  rwa [hword, BVec.flip_flip] at hexec

end

/-! ### ENC.MAT, DEC.MAT and INFO one after another -/

/-- A formula session asks for all of its information elements (10_state R48). -/
theorem pkreq_of_formula {s : State} (hinv : s.Inv) (hmode : s.params.mode = .formula) : s.pkreq = s.pk := by
  obtain ⟨-, ⟨-, -, hformula, -⟩, -⟩ := hinv
  obtain ⟨-, -, hkreq⟩ := hformula hmode
  exact congrArg BitVec.toNat hkreq

/-- States of one session have the same lengths. -/
theorem State.lengths_congr {s t : State} (h : t.params = s.params) :
    t.pk = s.pk ∧ t.pr = s.pr ∧ t.pn = s.pn ∧ t.pkreq = s.pkreq := by
  simp [State.pk, State.pr, State.pn, State.pkreq, h]

/-- Every codeword of a session of the Hamming shape has syndrome 0 (46 R233 (b)). -/
theorem matSyndrome_matCodeword_of_hammingShape {s : State} {a : BVec} (hshape : HammingShape s.params) (ha : a.Fits)
    (hlen : a.len = s.pk) : matSyndrome s.pk s.pr s.pn (matCodeword s.pk s.pr s.pn a) = 0 := by
  obtain ⟨hr, hlt⟩ : 1 ≤ s.pr ∧ s.pk + s.pr < 2 ^ s.pr := hammingShape_bounds hshape
  have hn := pn_of_hammingShape hshape
  rw [hn]
  exact matSyndrome_matCodeword hr hlt ha hlen

/-- ENC.MAT writes α·G and keeps the session (44 R192). -/
theorem exec_encMat_matCodeword {s : State} {a : VIdx} (b : VIdx) (hinv : s.Inv) (hshape : HammingShape s.params)
    (ha : (s.vec a).len = s.pk) :
    ∃ t, exec (.encMat b a) s = .next t ∧ t.err = .ok ∧ t.Inv ∧ t.params = s.params ∧
      t.vec b = matCodeword t.pk t.pr t.pn (s.vec a) := by
  obtain ⟨hr, hlt⟩ : 1 ≤ s.pr ∧ s.pk + s.pr < 2 ^ s.pr := hammingShape_bounds hshape
  obtain ⟨t, hexec, hwrites⟩ := exec_encMat b hinv hshape ha
  have hvec := hwrites.vec_eq
  have herr := hwrites.err_eq_ok
  obtain ⟨hok, -, -, hparams, -, -, -, -, htables, -⟩ := hwrites
  refine ⟨t, hexec, herr, inv_of_completesOk hinv hok hparams htables, hparams, ?_⟩
  obtain ⟨hk, hr', hn, -⟩ := State.lengths_congr hparams
  rw [hvec, hk, hr', hn]
  exact (matCodeword_eq hr hlt s.pn (s.vec a)).symm

section
variable {s : State} {b : VIdx} {a : BVec} (hinv : s.Inv) (hshape : HammingShape s.params) (ha : a.Fits)
  (hlen : a.len = s.pk)
include hinv hshape ha hlen

/-- INFO takes the information word out of the codeword a decoder has written (45 R214). -/
theorem exec_info_of_matCodeword {t : State} {d : DStat} {x : Nat}
    (hdec : WritesOnlyDecoded s t b (matCodeword s.pk s.pr s.pn a) d x) :
    ∃ t', exec (.info b b) t = .next t' ∧ t'.vec b = a := by
  obtain ⟨hr, hlt⟩ : 1 ≤ s.pr ∧ s.pk + s.pr < 2 ^ s.pr := hammingShape_bounds hshape
  have hkreq := pkreq_of_formula hinv hshape.1
  obtain ⟨hok, ⟨hvec, -⟩, -, -, hparams, -, -, -, htables, -⟩ := hdec
  obtain ⟨-, hr', hn', hkreq'⟩ := State.lengths_congr hparams
  obtain ⟨t', hexec, -, hinfo⟩ := exec_info_of_shiftLeft_xor b (inv_of_completesOk hinv hok hparams htables)
    (by simp [hparams, hshape.1]) ha (by rw [hlen, hkreq', hkreq])
    (by rw [hr']; exact xorColumns_lt hr hlt a (List.range' 1 s.pk)) (by rw [hvec, hr', hn', matCodeword_eq hr hlt])
  exact ⟨t', hexec, hinfo⟩

/-- DEC.MAT and INFO of a codeword (45 R214, R213 (a)). -/
theorem exec_decMat_info (hword : s.vec b = matCodeword s.pk s.pr s.pn a) :
    ∃ t t', exec (.decMat b b) s = .next t ∧ t.dstat = .noError ∧ t.vec b = matCodeword s.pk s.pr s.pn a ∧
      exec (.info b b) t = .next t' ∧ t'.vec b = a := by
  have hsyn := matSyndrome_matCodeword_of_hammingShape hshape ha hlen
  rw [← hword] at hsyn
  obtain ⟨t, hexec, hwrites⟩ := exec_decMat_of_syndrome_zero b hshape (congrArg BVec.len hword) hsyn
  rw [hword] at hwrites
  obtain ⟨t', hexec', hinfo⟩ := exec_info_of_matCodeword hinv hshape ha hlen hwrites
  obtain ⟨-, ⟨hvec, -⟩, hdstat, -⟩ := hwrites
  exact ⟨t, t', hexec, hdstat, hvec, hexec', hinfo⟩

/-- DEC.MAT and INFO of a codeword with one element inverted (45 R214, R213 (b)). -/
theorem exec_decMat_info_of_flip {p : Nat} (h1 : 1 ≤ p) (hp : p ≤ s.pn)
    (hword : s.vec b = (matCodeword s.pk s.pr s.pn a).flip (p - 1)) :
    ∃ t t', exec (.decMat b b) s = .next t ∧ t.dstat = .corrected ∧ t.vec b = matCodeword s.pk s.pr s.pn a ∧
      exec (.info b b) t = .next t' ∧ t'.vec b = a := by
  have hsyn := matSyndrome_matCodeword_of_hammingShape hshape ha hlen
  obtain ⟨t, hexec, hwrites⟩ := exec_decMat_of_flip b hshape rfl hsyn h1 hp hword
  obtain ⟨t', hexec', hinfo⟩ := exec_info_of_matCodeword hinv hshape ha hlen hwrites
  obtain ⟨-, ⟨hvec, -⟩, hdstat, -⟩ := hwrites
  exact ⟨t, t', hexec, hdstat, hvec, hexec', hinfo⟩

end

end Sys2Proof.Machine

namespace Sys2Proof.Proofs

open Sys2Proof.Machine

/-- Settles O26: the errors in the order of the rule's checks, then what the search answers. -/
theorem decCycSearchesRotations : Obligations.DecCycSearchesRotations := by
  unfold Obligations.DecCycSearchesRotations
  intro s rd ra rb cap
  refine ⟨fun h => exec_eq_failed (if_pos h), fun hlen h0 => exec_eq_failed (effectOf_decCyc_of_zero rd hlen h0),
    fun hlen h0 hmul => exec_decCyc_of_multiple rd cap hlen h0 hmul, fun c hlen h0 hsyn hc hle hlt => ?_,
    fun hlen h0 hsyn h => ?_⟩
  · have hsearch := cyclicSearch_eq_some 0 hc hle hlt
    rw [Nat.zero_add] at hsearch
    exact exec_writesOnlyDecoded
      (BVec.rotrTimes_fits
        (BVec.xorAdd_fits (BVec.rotlTimes_fits (s.vec_fits ra) c) (BVec.modDivide_fits (s.vec_fits rb) h0)) c)
      (effectOf_decCyc_of_some rd hlen h0 hsyn hsearch)
  · exact exec_writesOnlyDecoded (s.vec_fits ra) (effectOf_decCyc_of_none rd hlen h0 hsyn (cyclicSearch_eq_none 0 h))

/-- Settles O27: the errors in the order of the rule's checks, then what the search for the column answers. -/
theorem decMatMatchesColumn : Obligations.DecMatMatchesColumn := by
  unfold Obligations.DecMatMatchesColumn
  intro s rd ra
  refine ⟨fun h => exec_eq_failed (if_pos ((hamOK_iff _).not.2 h)),
    fun hshape hlen => exec_eq_failed (effectOf_decMat_of_len rd hshape hlen),
    fun hshape hlen hsyn => exec_decMat_of_syndrome_zero rd hshape hlen hsyn,
    fun p _ hshape hlen _ h1 hp hcol => ?_, fun hshape hlen hsyn h => ?_⟩
  · obtain ⟨t, hexec, hwrites⟩ := exec_decMat_of_column rd hshape hlen h1 hp hcol
    refine ⟨t, ((s.vec ra).flip (p - 1)).val, hexec, hlen ▸ hwrites, fun j hj => ?_⟩
    obtain ⟨-, ⟨hvec, -⟩, -⟩ := hwrites
    rw [hvec, BVec.elem_flip (by omega) (by omega)]
  · exact exec_writesOnlyDecoded (s.vec_fits ra)
      (effectOf_decMat_of_none rd hshape hlen hsyn (columnPosition_eq_none h))

/-- Settles O28: the inverted element adds its column to the syndrome 0. -/
theorem decMatCorrectsEverySingleError : Obligations.DecMatCorrectsEverySingleError := by
  unfold Obligations.DecMatCorrectsEverySingleError
  intro s rd ra c p _ hshape _ hlen hsyn h1 hp hword
  exact exec_decMat_of_flip rd hshape hlen hsyn h1 hp hword

/-- Settles O29: the codeword has syndrome 0, so the decoder keeps it or undoes the inversion, and INFO undoes the
encoder's shift. -/
theorem hammingRoundTripWithOneError : Obligations.HammingRoundTripWithOneError := by
  unfold Obligations.HammingRoundTripWithOneError
  intro s a b hinv hshape ha
  obtain ⟨t₁, hexec₁, herr₁, hinv₁, hparams₁, hword⟩ := exec_encMat_matCodeword b hinv hshape ha
  have hshape₁ : HammingShape t₁.params := hparams₁ ▸ hshape
  obtain ⟨hk, -, hn, -⟩ := State.lengths_congr hparams₁
  have hlen : (s.vec a).len = t₁.pk := by rw [ha, hk]
  refine ⟨t₁, hexec₁, herr₁, ?_, fun p h1 hp => ?_⟩
  · rw [hword]
    exact exec_decMat_info hinv₁ hshape₁ (s.vec_fits a) hlen hword
  · have hwordlen : (t₁.vec b).len = t₁.pn := congrArg BVec.len hword
    have hflip := t₁.vec_setVec_same b (BVec.flip_fits (t₁.vec_fits b) (show p - 1 < (t₁.vec b).len by omega))
    rw [hword] at hflip ⊢
    exact exec_decMat_info_of_flip (s := t₁.setVec b _) hinv₁ hshape₁ (s.vec_fits a) hlen h1 (hn ▸ hp) hflip

end Sys2Proof.Proofs

end

section
/-! PROOFS. The hamming_ecc_engine unit: the columns of H are the numbers 1 to n in the order of R231, the rows of G are
codewords and so orthogonal to H, and the unit's commands read the syndrome, the rows and the columns element by element
(46_hamming_ecc_engine R231 to R237). -/

namespace Sys2Proof.Machine

/-! ### The columns of H as a list of 1..n -/

section
variable {k r : Nat} (hlow : ∀ e < r, 2 ^ e ≤ k + r) (hhigh : k + r < 2 ^ r)
include hlow hhigh

/-- A column of A is a number of J, and one of the identity a power of two that 1..n reaches (46 R231). -/
theorem colval_le {p : Nat} (h1 : 1 ≤ p) (hp : p ≤ k + r) : colval k r p ≤ k + r := by
  rcases Nat.lt_or_ge k p with hk | hk
  · rw [colval_of_lt r hk]
    exact hlow _ (by omega)
  · exact le_of_mem_nonPowers (colval_mem_nonPowers hlow hhigh h1 hk)

theorem colval_mapsTo : Set.MapsTo (colval k r) (Finset.Icc 1 (k + r)) (Finset.Icc 1 (k + r)) := by
  intro p hp
  obtain ⟨h1, hn⟩ := Finset.mem_Icc.1 hp
  exact Finset.mem_Icc.2 ⟨Nat.pos_of_ne_zero (colval_ne_zero hlow hhigh h1), colval_le hlow hhigh h1 hn⟩

theorem colval_injOn : Set.InjOn (colval k r) (Finset.Icc 1 (k + r)) := by
  intro p hp q hq heq
  obtain ⟨hp1, hpn⟩ := Finset.mem_Icc.1 hp
  obtain ⟨hq1, hqn⟩ := Finset.mem_Icc.1 hq
  rcases Nat.lt_trichotomy p q with hlt | rfl | hlt
  · exact absurd heq (colval_ne_colval hlow hhigh hp1 hlt hqn)
  · rfl
  · exact absurd heq.symm (colval_ne_colval hlow hhigh hq1 hlt hpn)

/-- Different columns in 1..n for the n positions leave no number of 1..n out (46 R233 (a)). -/
theorem exists_colval_eq {v : Nat} (h1 : 1 ≤ v) (hv : v ≤ k + r) : ∃ p, 1 ≤ p ∧ p ≤ k + r ∧ colval k r p = v := by
  have hsurj := Finset.surjOn_of_injOn_of_card_le _ (colval_mapsTo hlow hhigh) (colval_injOn hlow hhigh) le_rfl
  obtain ⟨p, hp, heq⟩ := hsurj (Finset.mem_Icc.2 ⟨h1, hv⟩)
  obtain ⟨hp1, hpn⟩ := Finset.mem_Icc.1 hp
  exact ⟨p, hp1, hpn, heq⟩

end

/-! ### The entries of H and the syndrome -/

/-- Element i - 1 of a word of `r` elements is its bit r - i. -/
theorem elem_pred (v : Nat) {r i : Nat} (h1 : 1 ≤ i) : BVec.elem ⟨r, v⟩ (i - 1) = v.testBit (r - i) := by
  rw [BVec.elem, show r - 1 - (i - 1) = r - i by omega]

/-- Each selected column flips bit `b` of the sum exactly when that bit of it is 1. -/
theorem testBit_xorColumns (k r : Nat) (w : BVec) (ps : List Nat) (b : Nat) :
    (xorColumns k r w ps).testBit b =
      decide ((ps.filter fun p => (colval k r p).testBit b && w.elem (p - 1)).length % 2 = 1) := by
  induction ps using List.reverseRecOn with
  | nil => simp
  | append_singleton ps p ih =>
    rw [xorColumns_concat, List.filter_append, List.length_append, List.filter_singleton]
    cases w.elem (p - 1) <;> cases hbit : (colval k r p).testBit b
    · simpa using ih
    · simpa using ih
    · simpa [hbit] using ih
    · rcases Nat.mod_two_eq_zero_or_one
        (ps.filter fun p => (colval k r p).testBit b && w.elem (p - 1)).length with h | h <;>
        simp [ih, hbit, h, Nat.add_mod]

/-- Element i - 1 of the syndrome is the parity of row i of H with the word (46 R234). -/
theorem elem_matSyndrome (k n : Nat) {r i : Nat} (w : BVec) (h1 : 1 ≤ i) :
    BVec.elem ⟨r, matSyndrome k r n w⟩ (i - 1) =
      decide (((List.range' 1 n).filter fun p => hEntry k r i p && w.elem (p - 1)).length % 2 = 1) :=
  (elem_pred _ h1).trans (testBit_xorColumns k r w _ _)

/-! ### The rows of H -/

theorem val_hRow_succ (k r n i : Nat) :
    (hRow k r (n + 1) i).val = Nat.bit (hEntry k r i (n + 1)) (hRow k r n i).val := by
  rw [hRow, List.range'_1_concat, List.foldl_append, Nat.bit_val, Nat.add_comm n, Nat.mul_comm]
  rfl

theorem val_hRow_lt (k r n i : Nat) : (hRow k r n i).val < 2 ^ n := by
  induction n with
  | zero => exact Nat.one_pos
  | succ n ih =>
    rw [val_hRow_succ]
    exact Nat.bit_lt_two_pow_succ_iff.2 ih

/-- The row's entry at position `p` has `n - p` later entries below it (46 R235). -/
theorem testBit_val_hRow (k r i : Nat) {n p : Nat} (h1 : 1 ≤ p) (hp : p ≤ n) :
    (hRow k r n i).val.testBit (n - p) = hEntry k r i p := by
  induction n, hp using Nat.le_induction with
  | base =>
    obtain ⟨m, rfl⟩ := Nat.exists_eq_add_of_le' h1
    rw [Nat.sub_self, val_hRow_succ, Nat.testBit_bit_zero]
  | succ n hp ih => rw [Nat.succ_sub hp, val_hRow_succ, Nat.testBit_bit_succ, ih]

theorem elem_hRow (k r i : Nat) {n p : Nat} (h1 : 1 ≤ p) (hp : p ≤ n) :
    (hRow k r n i).elem (p - 1) = hEntry k r i p :=
  (elem_pred _ h1).trans (testBit_val_hRow k r i h1 hp)

/-! ### The rows of G -/

section
variable {k r x : Nat} (hx : x < 2 ^ r)
include hx

theorem elem_shiftLeft_xor_high (a : Nat) {j : Nat} (h1 : 1 ≤ j) (hj : j ≤ k) :
    BVec.elem ⟨k + r, a <<< r ^^^ x⟩ (j - 1) = a.testBit (k - j) := by
  rw [elem_pred _ h1, show k + r - j = r + (k - j) by omega, ← Nat.testBit_shiftRight, shiftLeft_xor_shiftRight hx]

theorem elem_shiftLeft_xor_low (a : Nat) {i : Nat} (h1 : 1 ≤ i) (hi : i ≤ r) :
    BVec.elem ⟨k + r, a <<< r ^^^ x⟩ (k + i - 1) = x.testBit (r - i) := by
  have hbit := Nat.testBit_mod_two_pow (a <<< r ^^^ x) r (r - i)
  rw [shiftLeft_xor_mod_two_pow hx] at hbit
  rw [elem_pred _ (show 1 ≤ k + i by omega), Nat.add_sub_add_left, hbit, decide_eq_true (by omega), Bool.true_and]

end

/-- Row q of G is the codeword of the information word whose only 1 is at position q (46 R232). -/
theorem gRow_eq_matCodeword (r n : Nat) {k q : Nat} (h1 : 1 ≤ q) (hq : q ≤ k) :
    gRow k r n q = matCodeword k r n ⟨k, 2 ^ (k - q)⟩ := by
  have hcol := xorColumns_unit k r h1 hq
  rw [show k - 1 - (q - 1) = k - q by omega] at hcol
  rw [gRow, matCodeword, hcol]

section
variable {k r : Nat} (hr : 1 ≤ r) (hn : k + r < 2 ^ r)
include hr hn

theorem gRow_eq (n q : Nat) : gRow k r n q = ⟨n, 2 ^ (k - q) <<< r ^^^ colval k r q⟩ := by
  rw [gRow, shiftLeft_or_eq_shiftLeft_xor (colval_lt hr hn q)]

theorem gRow_fits (hW : k + r ≤ Config.W) {q : Nat} (h1 : 1 ≤ q) (hq : q ≤ k) : (gRow k r (k + r) q).Fits := by
  rw [gRow_eq hr hn]
  exact ⟨hW, shiftLeft_xor_lt (colval_lt hr hn q) (Nat.pow_lt_pow_right (by omega) (by omega))⟩

/-- Row q of G begins with row q of the identity (46 R232). -/
theorem elem_gRow_high {q j : Nat} (hq : q ≤ k) (h1 : 1 ≤ j) (hj : j ≤ k) :
    (gRow k r (k + r) q).elem (j - 1) = decide (j = q) := by
  rw [gRow_eq hr hn, elem_shiftLeft_xor_high (colval_lt hr hn q) _ h1 hj, Nat.testBit_two_pow]
  exact decide_eq_decide.2 (by omega)

/-- Row q of G ends with column q of A (46 R232). -/
theorem elem_gRow_low (q : Nat) {i : Nat} (h1 : 1 ≤ i) (hi : i ≤ r) :
    (gRow k r (k + r) q).elem (k + i - 1) = hEntry k r i q := by
  rw [gRow_eq hr hn, elem_shiftLeft_xor_low (colval_lt hr hn q) _ h1 hi, hEntry]

/-- The rows of G are orthogonal to H (46 R233 (b)). -/
theorem matSyndrome_gRow (hk : k ≤ Config.W) {q : Nat} (h1 : 1 ≤ q) (hq : q ≤ k) :
    matSyndrome k r (k + r) (gRow k r (k + r) q) = 0 := by
  rw [gRow_eq_matCodeword r _ h1 hq]
  exact matSyndrome_matCodeword hr hn ⟨hk, Nat.pow_lt_pow_right (by omega) (by show k - q < k; omega)⟩ rfl

end

/-! ### Completion of the unit's commands -/

/-- What the unit's commands rely on in a consistent session of the Hamming shape (46 R230). -/
theorem hammingSession_bounds {s : State} (hinv : s.Inv) (hshape : HammingShape s.params) :
    1 ≤ s.pr ∧ s.pk + s.pr < 2 ^ s.pr ∧ s.pk + s.pr = s.pn ∧ s.pn ≤ Config.W := by
  obtain ⟨hr, hlt⟩ := hammingShape_bounds hshape
  obtain ⟨hmode, -⟩ := hshape
  obtain ⟨hn, hW, -⟩ := session_lengths hinv (by simp [hmode])
  exact ⟨hr, hlt, hn, hW⟩

section
variable {i : Instr} {s : State} {bad : Prop} [Decidable bad] {rd : VIdx} {a : BVec} {x : Nat}
  (h : effectOf i s = if ¬ s.params.hamOK then .error .sessionError
    else if bad then .error .invalidInput else writesVec rd a x)
include h

/-- Each of the unit's commands checks the session first, then its operand, then writes a vector (46 R230, R234 to
R237). -/
theorem exec_of_not_hammingShape (hshape : ¬ HammingShape s.params) : exec i s = .next (failed s .sessionError) :=
  exec_eq_failed (h.trans (if_pos ((hamOK_iff _).not.2 hshape)))

theorem effectOf_of_hammingShape (hshape : HammingShape s.params) :
    effectOf i s = if bad then .error .invalidInput else writesVec rd a x :=
  h.trans (if_neg (not_not.2 ((hamOK_iff _).2 hshape)))

/-- The operand check comes second (46 R234 to R237). -/
theorem exec_of_hammingShape_of_bad (hshape : HammingShape s.params) (hbad : bad) :
    exec i s = .next (failed s .invalidInput) :=
  exec_eq_failed ((effectOf_of_hammingShape h hshape).trans (if_pos hbad))

theorem exec_of_hammingShape (hshape : HammingShape s.params) (hok : ¬ bad) (ha : a.Fits) :
    ∃ t, exec i s = .next t ∧ WritesOnlyVec s t rd a x :=
  exec_writesOnlyVec ha ((effectOf_of_hammingShape h hshape).trans (if_neg hok))

end

end Sys2Proof.Machine

namespace Sys2Proof.Proofs

open Sys2Proof.Machine

/-- Settles O32: the columns are different numbers of 1..n, so they are all of them; R231's order is that of J, then
the identity. -/
theorem columnsAreOneToNOnce : Obligations.ColumnsAreOneToNOnce := by
  unfold Obligations.ColumnsAreOneToNOnce
  intro cfg p _ hshape
  have hlow := two_pow_le_of_hammingShape hshape
  obtain ⟨-, hhigh⟩ := hammingShape_bounds hshape
  obtain ⟨-, hn, -⟩ := hshape
  rw [hn]
  refine ⟨fun q h1 hq => ?range, fun q q' h1 hq h1' hq' heq => ?injective, fun v h1 hv => ?onto,
    fun q q' h1 hlt hk => ?ascending, fun q e h1 hk => ?nonPower, fun i h1 _ => ?identity⟩
  case range => exact Finset.mem_Icc.1 (colval_mapsTo hlow hhigh (Finset.mem_Icc.2 ⟨h1, hq⟩))
  case injective =>
    exact colval_injOn hlow hhigh (Finset.mem_Icc.2 ⟨h1, hq⟩) (Finset.mem_Icc.2 ⟨h1', hq'⟩) heq
  case onto => exact exists_colval_eq hlow hhigh h1 hv
  case ascending => exact colval_lt_colval hlow hhigh h1 hlt hk
  case nonPower =>
    obtain ⟨-, hpow⟩ := mem_nonPowers.1 (colval_mem_nonPowers hlow hhigh h1 hk)
    exact hpow e
  case identity => rw [colval_of_lt _ (by omega), Nat.add_sub_cancel_left]

/-- Settles O33: a row of G is a codeword, and the syndrome of a codeword is its check bits added to themselves. -/
theorem codewordsAreOrthogonalToH : Obligations.CodewordsAreOrthogonalToH := by
  unfold Obligations.CodewordsAreOrthogonalToH
  intro cfg p hwf hshape
  obtain ⟨hr, hlt⟩ := hammingShape_bounds hshape
  obtain ⟨hmode, hn, -⟩ := hshape
  obtain ⟨-, hsession, -⟩ := hwf
  obtain ⟨-, -, hW, -⟩ := hsession (by simp [hmode])
  rw [hn] at hW ⊢
  exact ⟨fun q h1 hq => matSyndrome_gRow hr hlt (by omega) h1 hq,
    fun a ha hlen => matSyndrome_matCodeword hr hlt ha hlen⟩

/-- Settles O34: the errors in the order of the rule's checks, and the syndrome read bit by bit. -/
theorem synmWritesMatrixSyndrome : Obligations.SynmWritesMatrixSyndrome := by
  unfold Obligations.SynmWritesMatrixSyndrome
  intro s rd ra
  refine ⟨exec_of_not_hammingShape rfl, exec_of_hammingShape_of_bad rfl, fun hinv hshape hlen => ?_⟩
  obtain ⟨hr, hlt, hn, hW⟩ := hammingSession_bounds hinv hshape
  obtain ⟨t, hexec, hwrites⟩ := exec_of_hammingShape (i := .synm rd ra) rfl hshape (not_not.2 hlen)
    ⟨show s.pr ≤ Config.W by omega, xorColumns_lt hr hlt _ _⟩
  refine ⟨t, hexec, hwrites, fun i h1 _ => ?_⟩
  rw [hwrites.vec_eq]
  exact elem_matSyndrome _ _ _ h1

/-- Settles O35: the errors in the order of the rule's checks, and the row read element by element. -/
theorem hrowReadsRowOfH : Obligations.HrowReadsRowOfH := by
  unfold Obligations.HrowReadsRowOfH
  intro s rd i
  refine ⟨exec_of_not_hammingShape rfl, exec_of_hammingShape_of_bad rfl, fun hinv hshape h1 hi => ?_⟩
  obtain ⟨-, -, -, hW⟩ := hammingSession_bounds hinv hshape
  obtain ⟨t, hexec, hwrites⟩ := exec_of_hammingShape (i := .hrow rd i) rfl hshape
    (not_or.2 ⟨Nat.not_lt.2 h1, Nat.not_lt.2 hi⟩) ⟨hW, val_hRow_lt _ _ _ _⟩
  refine ⟨t, _, hexec, hwrites, fun p hp1 hpn => ?_⟩
  rw [hwrites.vec_eq]
  exact elem_hRow _ _ _ hp1 hpn

/-- Settles O36: the errors in the order of the rule's checks, and H[i][p] is by definition that bit of the column. -/
theorem hcolReadsColumnOfH : Obligations.HcolReadsColumnOfH := by
  unfold Obligations.HcolReadsColumnOfH
  intro s rd p
  refine ⟨exec_of_not_hammingShape rfl, exec_of_hammingShape_of_bad rfl, fun hinv hshape h1 hp => ?_⟩
  obtain ⟨hr, hlt, hn, hW⟩ := hammingSession_bounds hinv hshape
  obtain ⟨t, hexec, hwrites⟩ := exec_of_hammingShape (i := .hcol rd p) rfl hshape
    (not_or.2 ⟨Nat.not_lt.2 h1, Nat.not_lt.2 hp⟩) ⟨show s.pr ≤ Config.W by omega, colval_lt hr hlt p⟩
  refine ⟨t, hexec, hwrites, fun i hi1 _ => ?_⟩
  rw [hwrites.vec_eq]
  exact elem_pred _ hi1

/-- Settles O37: the errors in the order of the rule's checks, and the row read as its high and its low elements. -/
theorem growReadsRowOfG : Obligations.GrowReadsRowOfG := by
  unfold Obligations.GrowReadsRowOfG
  intro s rd q
  refine ⟨exec_of_not_hammingShape rfl, exec_of_hammingShape_of_bad rfl, fun hinv hshape h1 hq => ?_⟩
  obtain ⟨hr, hlt, hn, hW⟩ := hammingSession_bounds hinv hshape
  have hfits : (gRow s.pk s.pr s.pn q).Fits := hn ▸ gRow_fits hr hlt (hn ▸ hW) h1 hq
  obtain ⟨t, hexec, hwrites⟩ := exec_of_hammingShape (i := .grow rd q) rfl hshape
    (not_or.2 ⟨Nat.not_lt.2 h1, Nat.not_lt.2 hq⟩) hfits
  have hrow : t.vec rd = gRow s.pk s.pr (s.pk + s.pr) q := by
    rw [hn]
    exact hwrites.vec_eq
  refine ⟨t, _, hexec, hwrites, ?_⟩
  rw [hrow]
  exact ⟨fun j hj1 hj => elem_gRow_high hr hlt hq hj1 hj, fun i hi1 hi => elem_gRow_low hr hlt q hi1 hi⟩

end Sys2Proof.Proofs

end

section
/-! PROOFS. Errors and the interrupt output: a failing command writes STATUS alone, a word that is no command fails with
IllegalCommand, and irq follows IE and DONE through a completion and through each of its causes (60_exceptions R254,
R259, R262, R263). -/

namespace Sys2Proof.Machine

/-- A completion that leaves an error code is the completion of an effect that raises it (60_exceptions R254, R255). -/
theorem eq_fail_of_complete_err_ne {s : State} {e : Effect} (h : (s.complete e).err ≠ .ok) :
    s.complete e = s.fail (s.complete e).err := by
  cases e with
  | error c => rfl
  | ok w => exact absurd (State.err_succeed s w) h

/-- The word in flight fails when it decodes to no command (60_exceptions R259). -/
theorem inFlightEffect_of_no_command {s : State} (h : ∀ i, decode s.cmd ≠ .ok i) :
    inFlightEffect s = .error .illegalCommand := by
  unfold inFlightEffect
  cases hd : decode s.cmd with
  | error e => rfl
  | ok i => exact absurd hd (h i)

theorem State.done_complete (s : State) (e : Effect) : (s.complete e).done = true := by
  cases e <;> rfl

/-- DONE rises with every completion, so that IE alone decides irq (60_exceptions R262). -/
theorem State.irq_complete (s : State) (e : Effect) : (s.complete e).irq = s.ie := by
  obtain ⟨hie, -⟩ := s.keepsHostSide_complete e
  rw [State.irq, hie, State.done_complete, Bool.and_true]

/-! ### irq after the host's writes -/

section
variable (s : State) {v : Word}

theorem State.irq_writeStatus_of_done_clear (h : v.getLsbD 1 = true) : (s.writeStatus v).irq = false := by
  rw [State.irq, State.done_writeStatus, h, Bool.not_true, Bool.and_false, Bool.and_false]

/-- A soft reset lowers irq whatever bit 0 of the write is (70_reset_and_hazards R281). -/
theorem State.irq_writeCtrl_of_reset (h : v.getLsbD 1 = true) : (s.writeCtrl v).irq = false := by
  rw [State.writeCtrl, if_pos h]
  rfl

/-- Without a soft reset the written IE decides irq together with DONE (10_state R32). -/
theorem State.irq_writeCtrl_of_no_reset (h : v.getLsbD 1 = false) :
    (s.writeCtrl v).irq = (v.getLsbD 0 && s.done) :=
  congrArg State.irq (writeReg_ctrl_of_no_reset s h)

/-- CTRL bit 0 = 0 lowers irq with or without a soft reset (60_exceptions R263). -/
theorem State.irq_writeCtrl_of_ie_clear (h : v.getLsbD 0 = false) : (s.writeCtrl v).irq = false := by
  cases hreset : v.getLsbD 1 with
  | true => exact s.irq_writeCtrl_of_reset hreset
  | false => rw [s.irq_writeCtrl_of_no_reset hreset, h, Bool.false_and]

end

/-- An accepted command word clears DONE (70_reset_and_hazards R283 (a)). -/
theorem State.irq_writeReg_cmd_idle {s : State} {v : Word} (h : s.busy = false) : (s.writeReg .cmd v).irq = false := by
  rw [State.writeReg, interlocked_idle h, State.irq, State.done_accept, Bool.and_false]

/-- A word write of the window whose register write leaves irq at `b` is a step that leaves irq at `b`. -/
theorem exists_step_busWrite_irq {s : State} {off : Nat} {v : Word} {rest : List Turn} {b : Bool}
    (h : s.schedule = .busWrite off 32 v :: rest) (hoff : off < 0x200) (halign : off % 4 = 0)
    (hirq : (State.writeReg { s with schedule := rest } (regAt off) v).irq = b) :
    ∃ t, step s = .next t ∧ t.irq = b :=
  ⟨_, step_busWrite h hoff halign, hirq⟩

end Sys2Proof.Machine

namespace Sys2Proof.Proofs

open Sys2Proof.Machine

/-- A row that selects a word has the word's OP, finds Z = 0 there, and is the only row of that OP: such words are no
command (30_encoding R94, R96, 60_exceptions R259). -/
theorem decode_ne_ok_of_illegal {w : Word}
    (h : (∀ row ∈ opcodeMap, row.op ≠ opField w) ∨ zField w = 1 ∨
      ∃ row ∈ opcodeMap, row.op = opField w ∧ w &&& row.mask ≠ row.matchWord) (i : Instr) : decode w ≠ .ok i := by
  intro hdecode
  obtain ⟨row, hrow, hsel, -⟩ := decode_eq_ok_iff.1 hdecode
  have hop : row.op = opField w := op_eq_of_selected hrow hsel
  rcases h with hunassigned | hz | ⟨row', hrow', hop', hne⟩
  · exact hunassigned row hrow hop
  · obtain ⟨hlt, -, hcovers, -⟩ := opcodeMap_fieldMask row hrow
    have hzero : zField w = 0 := fieldBits_of_selected hsel hlt (by decide) hcovers
    omega
  · obtain rfl : row' = row := List.inj_on_of_nodup_map opcodeMap_op_nodup hrow' hrow (hop'.trans hop.symm)
    exact hne hsel

/-- Settles O42: a command's completion with an error is `State.fail`. -/
theorem failuresWriteOnlyStatus : Obligations.FailuresWriteOnlyStatus := by
  unfold Obligations.FailuresWriteOnlyStatus
  intro i s t h herr
  obtain rfl := eq_complete_of_exec h
  exact eq_fail_of_complete_err_ne herr

/-- Settles O47: the engine's turn completes such a word with the effect of a word that is no command. -/
theorem illegalWordsRaiseIllegalCommand : Obligations.IllegalWordsRaiseIllegalCommand := by
  unfold Obligations.IllegalWordsRaiseIllegalCommand
  intro s rest hbusy hsched hillegal
  have heffect : inFlightEffect s.popped = .error .illegalCommand :=
    inFlightEffect_of_no_command (s := s.popped) (decode_ne_ok_of_illegal hillegal)
  rw [step_engine (.inr ⟨rest, hsched⟩), engineTurn_busy (s := s.popped) hbusy, heffect, popped_eq hsched]
  rfl

/-- Settles O56: after a completion irq is IE; of the host's writes and the resets, one raises it and the others lower
IE or DONE. -/
theorem interruptFollowsCompletion : Obligations.InterruptFollowsCompletion := by
  unfold Obligations.InterruptFollowsCompletion
  refine ⟨fun s => rfl, fun i s => ⟨_, exec_eq_complete i s, s.irq_complete _⟩, fun s rest v =>
    ⟨fun h hv => ?status, fun h hv => ?ieClear, fun h hidle => ?accept, fun h => ?hardReset, fun h hv => ?softReset,
      fun h hie hv hdone => ?ieSet⟩⟩
  case status => exact exists_step_busWrite_irq h (by decide) rfl (State.irq_writeStatus_of_done_clear _ hv)
  case ieClear => exact exists_step_busWrite_irq h (by decide) rfl (State.irq_writeCtrl_of_ie_clear _ hv)
  case accept =>
    exact exists_step_busWrite_irq h (by decide) rfl
      (State.irq_writeReg_cmd_idle (s := { s with schedule := rest }) hidle)
  case hardReset => exact ⟨_, step_turn h, rfl⟩
  case softReset => exact exists_step_busWrite_irq h (by decide) rfl (State.irq_writeCtrl_of_reset _ hv)
  case ieSet =>
    refine exists_step_busWrite_irq h (by decide) rfl ((State.irq_writeCtrl_of_no_reset _ hv).trans ?_)
    exact Bool.and_eq_true_iff.2 ⟨hie, hdone⟩

end Sys2Proof.Proofs

end

section
/-! PROOFS. Resets, the interlock and the life of a command in flight: what a host write leaves while BUSY = 1, that
harmless accesses leave the command in flight alone, and that every command in flight completes
(70_reset_and_hazards R280 to R288). -/

namespace Sys2Proof.Machine

/-! ### Completion -/

theorem State.busy_complete (s : State) (e : Effect) : (s.complete e).busy = false := by
  cases e <;> rfl

/-- The codes a completing command leaves: 0, or one its rule raises (60_exceptions R250, R254, R255). -/
theorem err_complete_effectOf (i : Instr) (s : State) :
    (s.complete (effectOf i s)).err ≠ .positionError ∧ (s.complete (effectOf i s)).err ≠ .exceedsCapability ∧
      (s.complete (effectOf i s)).err ≠ .illegalCommand := by
  cases he : effectOf i s with
  | ok w => simp
  | error c => exact (effectOf_error_code he).2

theorem engineTurn_of_decode {s : State} {i : Instr} (hbusy : s.busy = true) (hdecode : decode s.cmd = .ok i) :
    engineTurn s = exec i s := by
  rw [engineTurn, if_pos hbusy, completeInFlight, State.inFlightWord, hdecode]

/-- The engine's scheduled turn runs the command that the word in flight decodes to (70 R283 (b)). -/
theorem step_engine_of_decode {s : State} {rest : List Turn} {i : Instr} (h : s.schedule = .engine :: rest)
    (hbusy : s.busy = true) (hdecode : decode s.cmd = .ok i) : step s = exec i { s with schedule := rest } := by
  rw [step_engine (.inr ⟨rest, h⟩), popped_eq h]
  exact engineTurn_of_decode (s := { s with schedule := rest }) hbusy hdecode

/-- When the engine moves next, a command in flight completes. -/
theorem step_engine_busy {s : State} (h : s.engineNext) (hbusy : s.busy = true) :
    step s = .next (s.popped.complete (inFlightEffect s.popped)) := by
  rw [step_engine h, engineTurn_busy (s := s.popped) hbusy]

/-! ### The registers the interlock guards -/

/-- The registers whose host writes are lost while BUSY = 1 (70 R284). -/
def Reg.Guarded : Reg → Prop
  | .cmd => True
  | .vlen _ => True
  | .vdlo _ => True
  | .vdhi _ => True
  | _ => False

/-- CMD and the vector register fields are the guarded registers of the window (20_memory R71). -/
theorem guarded_regAt_iff {off : Nat} (halign : off % 4 = 0) :
    (regAt off).Guarded ↔ off = 0x00C ∨ vectorField off := by
  unfold regAt
  split
  case isTrue hrange =>
    have hnotCmd : off ≠ 0x00C := by omega
    rw [or_iff_right hnotCmd]
    split
    case h_4 h0 h4 h8 =>
      have hpad : off % 16 = 12 := by
        simp only [imp_false] at h0 h4 h8
        omega
      exact iff_of_false id fun ⟨_, _, _, hfield⟩ => hfield hpad
    all_goals exact iff_of_true trivial ⟨hrange.1, hrange.2, halign, by omega⟩
  case isFalse hrange =>
    have hnotVec : ¬ vectorField off := fun ⟨hlow, hhigh, _⟩ => hrange ⟨hlow, hhigh⟩
    rw [or_iff_left hnotVec]
    split
    case h_4 => exact iff_of_true trivial rfl
    case h_13 => exact iff_of_false id ‹off = 0x00C → False›
    all_goals exact iff_of_false id (by decide)

/-- STATUS has one place in the window (20_memory R71). -/
theorem regAt_eq_status {off : Nat} (h : regAt off = .status) : off = 0x008 := by
  unfold regAt at h
  split at h
  · split at h <;> cases h
  · split at h
    case h_3 => rfl
    all_goals cases h

theorem interlocked_busy {s : State} (h : s.busy = true) (f : State → State) :
    s.interlocked f = { s with ovr := true } :=
  if_pos h

section
variable {s : State} {r : Reg} (v : Word)

theorem writeReg_of_guarded (hbusy : s.busy = true) (hr : r.Guarded) : s.writeReg r v = { s with ovr := true } := by
  cases r with
  | cmd => rw [State.writeReg, interlocked_busy hbusy]
  | vlen i => rw [State.writeReg, interlocked_busy hbusy]
  | vdlo i => rw [State.writeReg, interlocked_busy hbusy]
  | vdhi i => rw [State.writeReg, interlocked_busy hbusy]
  | _ => exact hr.elim

/-- A read-only or reserved register ignores a write (20_memory R71, R76). -/
theorem writeReg_of_readOnly (hctrl : r ≠ .ctrl) (hstatus : r ≠ .status) (hr : ¬ r.Guarded) : s.writeReg r v = s := by
  cases r with
  | ctrl => exact absurd rfl hctrl
  | status => exact absurd rfl hstatus
  | cmd => exact (hr trivial).elim
  | vlen i => exact (hr trivial).elim
  | vdlo i => exact (hr trivial).elim
  | vdhi i => exact (hr trivial).elim
  | _ => rfl

end

/-- A CTRL write with bit 1 = 1 is the soft reset (70 R281). -/
theorem writeReg_ctrl_of_reset (s : State) {v : Word} (h : v.getLsbD 1 = true) : s.writeReg .ctrl v = s.resetCore :=
  if_pos h

/-- While no command is in flight a CMD write accepts its word (70 R283 (a)). -/
theorem writeReg_cmd_idle {s : State} (h : s.busy = false) (v : Word) : s.writeReg .cmd v = s.accept v := by
  rw [State.writeReg, interlocked_idle h]

/-! ### Runs inside the window -/

theorem core_run_succ (M : Host.Core) {s t : M.State} (h : M.step s = .next t) (n : Nat) :
    M.run (n + 1) s = M.run n t := by
  rw [Host.Core.run, h]

theorem run_succ {s t : State} (h : step s = .next t) (n : Nat) : run (n + 1) s = run n t :=
  core_run_succ Sys2Proof.core h n

/-- With no access outside the window next, a step answers a next state (log 4). -/
theorem exists_step_of_safeTurn {s : State} (h : ∀ u ∈ s.schedule, safeTurn u) : ∃ t, step s = .next t := by
  cases hstep : step s with
  | next t => exact ⟨t, rfl⟩
  | refused r => exact absurd hstep step_not_refused
  | fault f =>
    obtain ⟨off, -, hoff, ⟨size, hhead⟩ | ⟨size, v, hhead⟩⟩ := step_fault hstep
    · exact absurd (h _ (List.mem_of_head? hhead)) (Nat.not_lt.2 hoff)
    · exact absurd (h _ (List.mem_of_head? hhead)) (Nat.not_lt.2 hoff)

theorem schedule_complete (s : State) (e : Effect) : (s.complete e).schedule = s.schedule := by
  obtain ⟨-, -, -, -, hschedule, -⟩ := s.keepsHostSide_complete e
  exact hschedule

theorem schedule_writeReg (s : State) (r : Reg) (v : Word) : (s.writeReg r v).schedule = s.schedule := by
  rcases writeReg_cases s r v with
    ⟨e, -, -⟩ | ⟨-, -, e⟩ | ⟨-, -, e⟩ | ⟨-, e⟩ | ⟨-, e⟩ | ⟨-, -, e⟩ | ⟨-, i, w, -, e⟩ <;> rw [e] <;> rfl

/-- Every step takes the oldest turn away and schedules none (log 1). -/
theorem schedule_step {s t : State} (h : step s = .next t) : t.schedule = s.schedule.tail := by
  rcases step_cases h with ⟨-, -, rfl⟩ | ⟨-, -, rfl⟩ | ⟨-, -, r, -, -, rfl⟩ | ⟨off, -, v, -, -, -, rfl⟩ |
    ⟨-, -, -, -, -, -, rfl⟩ | ⟨-, rfl⟩
  · rfl
  · exact schedule_complete _ _
  · rfl
  · exact schedule_writeReg _ _ _
  · rfl
  · rfl

/-- A command in flight ends, at the latest at the engine's turn after everything scheduled (70 R288). -/
theorem exists_run_not_busy {turns : List Turn} {s : State} (hsched : s.schedule = turns) (hbusy : s.busy = true)
    (hsafe : ∀ u ∈ turns, safeTurn u) : ∃ n t, n ≤ turns.length + 1 ∧ run n s = .next t ∧ t.busy = false := by
  induction turns generalizing s with
  | nil => exact ⟨1, _, le_rfl, run_succ (step_engine_busy (.inl hsched) hbusy) 0, State.busy_complete _ _⟩
  | cons u rest ih =>
    obtain ⟨t, hstep⟩ := exists_step_of_safeTurn (hsched ▸ hsafe)
    cases hidle : t.busy with
    | false => exact ⟨1, t, by simp, run_succ hstep 0, hidle⟩
    | true =>
      have hrest : t.schedule = rest := by rw [schedule_step hstep, hsched, List.tail_cons]
      obtain ⟨n, t', hn, hrun, hend⟩ := ih hrest hidle fun x hx => hsafe x (List.mem_cons_of_mem u hx)
      exact ⟨n + 1, t', Nat.succ_le_succ hn, (run_succ hstep n).trans hrun, hend⟩

/-! ### What the host cannot disturb -/

/-- `t` holds the command in flight of `s` and all that its completion reads or keeps: everything of CORE but IE, OVR,
DONE and ERR (70 R283 to R285, 20_memory R83). -/
structure SameInFlight (s t : State) : Prop where
  vregs : t.vregs = s.vregs
  params : t.params = s.params
  tables : t.tables = s.tables
  result : t.result = s.result
  dstat : t.dstat = s.dstat
  cmd : t.cmd = s.cmd
  busy : t.busy = s.busy

theorem SameInFlight.trans {s t u : State} (h : SameInFlight s t) (h' : SameInFlight t u) : SameInFlight s u where
  vregs := h'.vregs.trans h.vregs
  params := h'.params.trans h.params
  tables := h'.tables.trans h.tables
  result := h'.result.trans h.result
  dstat := h'.dstat.trans h.dstat
  cmd := h'.cmd.trans h.cmd
  busy := h'.busy.trans h.busy

/-- While BUSY = 1 a host write short of a soft reset leaves the command in flight alone (70 R284, R285). -/
theorem sameInFlight_writeReg {s : State} (hbusy : s.busy = true) {r : Reg} {v : Word}
    (hreset : ¬ (r = .ctrl ∧ v.getLsbD 1 = true)) : SameInFlight s (s.writeReg r v) := by
  rcases writeReg_cases s r v with
    ⟨e, -, -⟩ | ⟨hr, hv, -⟩ | ⟨-, -, e⟩ | ⟨-, e⟩ | ⟨-, e⟩ | ⟨-, hidle, -⟩ | ⟨hidle, -⟩
  case inr.inl => exact absurd ⟨hr, hv⟩ hreset
  case inr.inr.inr.inr.inr.inl => exact absurd hbusy (by simp [hidle])
  case inr.inr.inr.inr.inr.inr => exact absurd hbusy (by simp [hidle])
  all_goals rw [e]; exact ⟨rfl, rfl, rfl, rfl, rfl, rfl, rfl⟩

/-- A harmless access is answered, by a step that leaves the command in flight alone. -/
theorem exists_step_of_harmless {s : State} {u : Turn} {rest : List Turn} (hsched : s.schedule = u :: rest)
    (hbusy : s.busy = true) (hu : harmless u) : ∃ t, step s = .next t ∧ SameInFlight s t := by
  have same : SameInFlight s s.popped := ⟨rfl, rfl, rfl, rfl, rfl, rfl, rfl⟩
  rw [step_turn hsched]
  cases u with
  | busRead off size =>
    have hin : ¬ Config.windowBytes ≤ off := Nat.not_le.2 hu
    rw [turn, busRead, if_neg hin]
    split <;> exact ⟨_, rfl, rfl, rfl, rfl, rfl, rfl, rfl, rfl⟩
  | busWrite off size v =>
    obtain ⟨hoff, hreset⟩ := hu
    have hin : ¬ Config.windowBytes ≤ off := Nat.not_le.2 hoff
    rw [turn, busWrite, if_neg hin]
    split
    · have hwrite : SameInFlight s (s.popped.writeReg (regAt off) v) :=
        same.trans (sameInFlight_writeReg (s := s.popped) hbusy fun h => hreset ⟨‹_›, h⟩)
      exact ⟨_, rfl, hwrite.trans ⟨rfl, rfl, rfl, rfl, rfl, rfl, rfl⟩⟩
    · exact ⟨_, rfl, rfl, rfl, rfl, rfl, rfl, rfl, rfl⟩
  | hardReset => exact hu.elim
  | engine => exact hu.elim

/-- However many harmless accesses come first, the run goes on from a state with the same command in flight. -/
theorem exists_run_harmless {accesses more : List Turn} {s : State} (hsched : s.schedule = accesses ++ more)
    (hbusy : s.busy = true) (hharmless : ∀ u ∈ accesses, harmless u) (n : Nat) :
    ∃ t, run (accesses.length + n) s = run n t ∧ SameInFlight s t ∧ t.schedule = more := by
  induction accesses generalizing s with
  | nil => exact ⟨s, by rw [List.length_nil, Nat.zero_add], ⟨rfl, rfl, rfl, rfl, rfl, rfl, rfl⟩, hsched⟩
  | cons u accesses ih =>
    rw [List.cons_append] at hsched
    obtain ⟨t, hstep, hsame⟩ := exists_step_of_harmless hsched hbusy (hharmless u List.mem_cons_self)
    have hrest : t.schedule = accesses ++ more := by rw [schedule_step hstep, hsched, List.tail_cons]
    obtain ⟨t', hrun, hsame', hmore⟩ :=
      ih hrest (hsame.busy.trans hbusy) fun x hx => hharmless x (List.mem_cons_of_mem u hx)
    refine ⟨t', ?_, hsame.trans hsame', hmore⟩
    rw [List.length_cons, Nat.add_right_comm, run_succ hstep, hrun]

theorem SameInFlight.inFlightEffect_eq {s t : State} (h : SameInFlight s t) : inFlightEffect t = inFlightEffect s := by
  unfold inFlightEffect
  rw [h.cmd]
  cases decode s.cmd with
  | ok i => exact effectOf_congr i h.vregs h.params h.tables
  | error e => rfl

/-- One effect completes the same command in flight alike (60_exceptions R254, R255). -/
theorem SameInFlight.complete {s t : State} (h : SameInFlight s t) (e : Effect) :
    SameInFlight (s.complete e) (t.complete e) := by
  cases e with
  | error c => exact ⟨h.vregs, h.params, h.tables, h.result, h.dstat, h.cmd, rfl⟩
  | ok w =>
    obtain ⟨vec, x, p, d⟩ := w
    refine ⟨?_, ?_, ?_, rfl, ?_, ?_, rfl⟩
    · rcases vec with _ | ⟨rd, a⟩ <;> simp [h.vregs]
    · simp [h.params]
    · simp [h.tables]
    · simp [h.dstat]
    · simp [h.cmd]

/-- A completion's error code is its effect's alone. -/
theorem err_complete_eq (s t : State) (e : Effect) : (t.complete e).err = (s.complete e).err := by
  cases e <;> rfl

end Sys2Proof.Machine

namespace Sys2Proof.Proofs

open Sys2Proof.Machine

/-- Settles O43: `exec` completes with the effect of the command's rule. -/
theorem everyCommandCompletes : Obligations.EveryCommandCompletes := by
  unfold Obligations.EveryCommandCompletes
  exact fun i s =>
    ⟨_, exec_eq_complete i s, State.done_complete _ _, State.busy_complete _ _, err_complete_effectOf i s⟩

/-- Settles O52: what a write does depends on whether the interlock guards the register its offset names. -/
theorem interlockAndIgnoredWrites : Obligations.InterlockAndIgnoredWrites := by
  unfold Obligations.InterlockAndIgnoredWrites
  refine fun s rest off v hoff halign => ⟨fun hbusy h hguarded => ?lost, fun h hctrl hstatus hcmd hvec => ?ignored,
    fun h => step_busRead h hoff halign⟩
  case lost =>
    rw [step_busWrite h hoff halign,
      writeReg_of_guarded (s := { s with schedule := rest }) v hbusy ((guarded_regAt_iff halign).2 hguarded)]
  case ignored =>
    have hunguarded : ¬ (regAt off).Guarded := fun hr => ((guarded_regAt_iff halign).1 hr).elim hcmd hvec
    rw [step_busWrite h hoff halign,
      writeReg_of_readOnly v (fun hr => hctrl (regAt_eq_ctrl hr)) (fun hr => hstatus (regAt_eq_status hr)) hunguarded]

/-- Settles O59: the accesses leave the command in flight alone, so its completion has the same effect on the same
registers. -/
theorem inFlightCommandCannotBeDisturbed : Obligations.InFlightCommandCannotBeDisturbed := by
  unfold Obligations.InFlightCommandCannotBeDisturbed
  intro s accesses rest hbusy hharmless
  obtain ⟨u, hrun, hsame, hsched⟩ := exists_run_harmless (more := .engine :: rest)
    (s := { s with schedule := accesses ++ .engine :: rest }) rfl hbusy hharmless 1
  have hstep := step_engine_busy (.inr ⟨rest, hsched⟩) (hsame.busy.trans hbusy)
  have hpopped : SameInFlight { s with schedule := rest } u.popped :=
    ⟨hsame.vregs, hsame.params, hsame.tables, hsame.result, hsame.dstat, hsame.cmd, hsame.busy⟩
  rw [hpopped.inFlightEffect_eq] at hstep
  have hsame' := hpopped.complete (inFlightEffect { s with schedule := rest })
  refine ⟨_, _, step_engine_busy (.inr ⟨rest, rfl⟩) hbusy, hrun.trans (run_succ hstep 0), hsame'.vregs,
    hsame'.params, hsame'.result, hsame'.cmd, err_complete_eq _ _ _, hsame'.dstat, ?_, hsame'.busy, ?_⟩
  · rw [State.done_complete, State.done_complete]
  · rw [schedule_complete, schedule_complete, popped_eq hsched]
    rfl

/-- Settles O60: by induction on the turns scheduled. -/
theorem inFlightCommandEnds : Obligations.InFlightCommandEnds := by
  unfold Obligations.InFlightCommandEnds
  exact fun s => exists_run_not_busy rfl

/-- Settles O45: the engine's turn, scheduled or not, is the completion of the word in flight. -/
theorem stepRunsDecodedCommand : Obligations.StepRunsDecodedCommand := by
  unfold Obligations.StepRunsDecodedCommand
  refine fun s rest h => ⟨fun i => step_engine_of_decode h, fun hidle => ?idle, fun i hbusy hdecode => ?unscheduled⟩
  case idle => rw [step_engine (.inr ⟨rest, h⟩), engineTurn_idle (s := s.popped) hidle, popped_eq h]
  case unscheduled =>
    rw [step_engine (.inl rfl)]
    exact engineTurn_of_decode (s := { s with schedule := [] }) hbusy hdecode

/-- Settles O46: the CMD write is an acceptance, after which the engine moves next. -/
theorem issueThenComplete : Obligations.IssueThenComplete := by
  unfold Obligations.IssueThenComplete
  intro s w rest hidle h
  have haccept := step_busWrite h (by decide) rfl
  rw [show regAt 0x00C = .cmd from rfl, writeReg_cmd_idle (s := { s with schedule := .engine :: rest }) hidle] at haccept
  refine ⟨_, haccept, rfl, fun i hdecode => step_engine_of_decode rfl rfl hdecode, fun i hw hwf => ?_⟩
  exact step_engine_of_decode rfl rfl (hw ▸ decodeOfEncode i hwf)

/-- Settles O49: both ways to reset are `State.resetCore`, whether a command is in flight or not. -/
theorem resetsReturnToResetState : Obligations.ResetsReturnToResetState := by
  unfold Obligations.ResetsReturnToResetState
  refine fun s rest v => ⟨fun h => ?hard, fun h hv => ?soft⟩
  case hard =>
    rw [step_turn h, popped_eq h]
    rfl
  case soft =>
    rw [step_busWrite h (by decide) rfl, show regAt 0x004 = .ctrl from rfl, writeReg_ctrl_of_reset _ hv]
    rfl

end Sys2Proof.Proofs

end
